-- ==== Sys2Proof/Word.lean ====
section
/-! DEFINITION. The machine word, the signed range, and the fields an instruction is made of
(spec/00_scope.md section 5.1; spec/10_state.md R10, R11; spec/30_encoding.md R50 to R52). -/

namespace Sys2Proof

/-- A register, a memory word and an instruction word: 32 bits (R3, R10, R50). In the notation of
spec/00_scope.md, `s(w)` is `w.toInt` and `u(w)` is `w.toNat`. -/
abbrev Word := BitVec 32

/-- `wrap32(n)`: the word whose unsigned value is `n mod 2^32` (spec/00_scope.md section 5.1). -/
def wrap32 (n : Int) : Word := BitVec.ofInt 32 n

/-- `fits32(n)`: `n` lies in the signed range of a word (spec/00_scope.md section 5.1). -/
abbrev fits32 (n : Int) : Prop := -2147483648 ≤ n ∧ n ≤ 2147483647

/-- A register number 0 to 7, as the fields Rj and Ri hold it (R10, R50). -/
abbrev Reg := Fin 8

/-- SP is R6 (R11). -/
abbrev Reg.sp : Reg := 6

/-- FP is R7 (R11). -/
abbrev Reg.fp : Reg := 7

/-- The three hardware addressing modes (R52); the fourth value of the field M is no mode and is
rejected by the decoder (R55). -/
inductive Mode where
  /-- M = 0, "indexed immediate" -/
  | immediate
  /-- M = 1, "indexed direct" -/
  | direct
  /-- M = 2, "indexed indirect" -/
  | indirect
deriving DecidableEq, Repr

/-- The second operand as the instruction word gives it: M, Ri and the signed constant ADDR
(R50, R51). -/
structure Operand where
  mode : Mode
  ri : Reg
  addr : Int
deriving DecidableEq, Repr

end Sys2Proof
end

