-- ==== Sys2Proof/Config.lean ====
section
/-! DEFINITION. What is fixed for a run but left open by the spec (spec/00_scope.md R3,
spec/10_state.md R22), and the free values (spec/93_implementation_defined.md U16, U17, U18, U20). -/

namespace Sys2Proof

/-- The input devices (spec/10_state.md R19). -/
inductive InputDevice where
  | kbd
  | stdin
deriving DecidableEq, Repr

/-- The output devices (spec/10_state.md R19). -/
inductive OutputDevice where
  | crt
  | stdout
deriving DecidableEq, Repr

/-- The five services of SVC (spec/45_system_calls.md R151). -/
inductive Service where
  | halt
  | read
  | write
  | time
  | date
deriving DecidableEq, Repr

/-- The parameters of a run that the spec leaves open (R3): a step reads them and never changes
them (R22). -/
structure Params where
  /-- `MEM_WORDS` -/
  memWords : Nat
  /-- `DEV_CRT` -/
  devCrt : Word
  /-- `DEV_KBD` -/
  devKbd : Word
  /-- `DEV_STDIN` -/
  devStdin : Word
  /-- `DEV_STDOUT` -/
  devStdout : Word
  /-- `SVC_HALT` -/
  svcHalt : Word
  /-- `SVC_READ` -/
  svcRead : Word
  /-- `SVC_WRITE` -/
  svcWrite : Word
  /-- `SVC_TIME` -/
  svcTime : Word
  /-- `SVC_DATE` -/
  svcDate : Word
deriving DecidableEq, Repr

/-- The device and service numbers the spec takes (R3, R65) and the largest memory it admits.
DESIGN CHOICE, unsafe: the memory size (log 3). PRESUMED by the spec itself, unsafe: the
numbers (log 4). -/
def Params.default : Params where
  memWords := 2147483648
  devCrt := 0
  devKbd := 1
  devStdin := 6
  devStdout := 7
  svcHalt := 11
  svcRead := 12
  svcWrite := 13
  svcTime := 14
  svcDate := 15

/-- The ranges R3 and the open parameters of spec/92_eei_decisions.md allow: 1 to 2^31 memory
words, four distinct device numbers, five distinct service numbers. -/
abbrev Params.Valid (p : Params) : Prop :=
  1 ≤ p.memWords ∧ p.memWords ≤ 2147483648 ∧
    [p.devCrt, p.devKbd, p.devStdin, p.devStdout].Nodup ∧
    [p.svcHalt, p.svcRead, p.svcWrite, p.svcTime, p.svcDate].Nodup

/-- What word `a` of memory holds at launch when the image does not reach it: "unspecified, any
word" (spec/10_state.md R21, U20). A free value: nothing constrains it. DESIGN CHOICE, safe
(log 2). -/
opaque Config.initialWord : Nat → Word

/-- The `n`-th value a run draws from the environment: a clock answer (R156, R157) or the scratch
word of a supervisor call (R153). A free value: nothing constrains it. DESIGN CHOICE, safe
(log 9). -/
opaque Config.freeWord : Nat → Word

/-- The words of the infinite input sequences: `Config.inputWord k n` is word `n` of sequence `k`
(spec/10_state.md R19; "any finite or infinite sequence of words", spec/92_eei_decisions.md, open
parameters; U16). A free value: nothing constrains it. DESIGN CHOICE, safe (log 21). -/
opaque Config.inputWord : Nat → Nat → Word

end Sys2Proof
end

