-- ==== Sys2Proof/Syntax.lean ====
section
/-! DEFINITION. The instructions: one constructor per row of spec/opcode_table.json, each with the
fields every instruction word carries (spec/30_encoding.md R50, R56). -/

namespace Sys2Proof

/-- A decoded instruction: its operation, its first operand register Rj and its second operand.
Every operation may carry every Rj, Ri, ADDR and mode (R57), also where it ignores them (R58). -/
inductive Instr where
  /-- NOP, opcode 0 (R165) -/
  | nop (rj : Reg) (op : Operand)
  /-- STORE, opcode 1 (R82) -/
  | store (rj : Reg) (op : Operand)
  /-- LOAD, opcode 2 (R81) -/
  | load (rj : Reg) (op : Operand)
  /-- IN, opcode 3 (R83) -/
  | inp (rj : Reg) (op : Operand)
  /-- OUT, opcode 4 (R84) -/
  | out (rj : Reg) (op : Operand)
  /-- ADD, opcode 17 (R91) -/
  | add (rj : Reg) (op : Operand)
  /-- SUB, opcode 18 (R92) -/
  | sub (rj : Reg) (op : Operand)
  /-- MUL, opcode 19 (R93) -/
  | mul (rj : Reg) (op : Operand)
  /-- DIV, opcode 20 (R94) -/
  | div (rj : Reg) (op : Operand)
  /-- MOD, opcode 21 (R95) -/
  | mod (rj : Reg) (op : Operand)
  /-- AND, opcode 22 (R96) -/
  | and (rj : Reg) (op : Operand)
  /-- OR, opcode 23 (R97) -/
  | or (rj : Reg) (op : Operand)
  /-- XOR, opcode 24 (R98) -/
  | xor (rj : Reg) (op : Operand)
  /-- SHL, opcode 25 (R100) -/
  | shl (rj : Reg) (op : Operand)
  /-- SHR, opcode 26 (R101) -/
  | shr (rj : Reg) (op : Operand)
  /-- NOT, opcode 27 (R99) -/
  | not (rj : Reg) (op : Operand)
  /-- SHRA, opcode 28 (R102) -/
  | shra (rj : Reg) (op : Operand)
  /-- COMP, opcode 31 (R104) -/
  | comp (rj : Reg) (op : Operand)
  /-- JUMP, opcode 32 (R111) -/
  | jump (rj : Reg) (op : Operand)
  /-- JNEG, opcode 33 (R112) -/
  | jneg (rj : Reg) (op : Operand)
  /-- JZER, opcode 34 (R113) -/
  | jzer (rj : Reg) (op : Operand)
  /-- JPOS, opcode 35 (R114) -/
  | jpos (rj : Reg) (op : Operand)
  /-- JNNEG, opcode 36 (R115) -/
  | jnneg (rj : Reg) (op : Operand)
  /-- JNZER, opcode 37 (R116) -/
  | jnzer (rj : Reg) (op : Operand)
  /-- JNPOS, opcode 38 (R117) -/
  | jnpos (rj : Reg) (op : Operand)
  /-- JLES, opcode 39 (R118) -/
  | jles (rj : Reg) (op : Operand)
  /-- JEQU, opcode 40 (R119) -/
  | jequ (rj : Reg) (op : Operand)
  /-- JGRE, opcode 41 (R120) -/
  | jgre (rj : Reg) (op : Operand)
  /-- JNLES, opcode 42 (R121) -/
  | jnles (rj : Reg) (op : Operand)
  /-- JNEQU, opcode 43 (R122) -/
  | jnequ (rj : Reg) (op : Operand)
  /-- JNGRE, opcode 44 (R123) -/
  | jngre (rj : Reg) (op : Operand)
  /-- CALL, opcode 49 (R141) -/
  | call (rj : Reg) (op : Operand)
  /-- EXIT, opcode 50 (R142) -/
  | exit (rj : Reg) (op : Operand)
  /-- PUSH, opcode 51 (R131) -/
  | push (rj : Reg) (op : Operand)
  /-- POP, opcode 52 (R132) -/
  | pop (rj : Reg) (op : Operand)
  /-- PUSHR, opcode 53 (R133) -/
  | pushr (rj : Reg) (op : Operand)
  /-- POPR, opcode 54 (R134) -/
  | popr (rj : Reg) (op : Operand)
  /-- SVC, opcode 112 (R151) -/
  | svc (rj : Reg) (op : Operand)
deriving DecidableEq, Repr

/-- The first operand register Rj of an instruction (R50). -/
def Instr.rj : Instr → Reg
  | .nop rj _ => rj
  | .store rj _ => rj
  | .load rj _ => rj
  | .inp rj _ => rj
  | .out rj _ => rj
  | .add rj _ => rj
  | .sub rj _ => rj
  | .mul rj _ => rj
  | .div rj _ => rj
  | .mod rj _ => rj
  | .and rj _ => rj
  | .or rj _ => rj
  | .xor rj _ => rj
  | .shl rj _ => rj
  | .shr rj _ => rj
  | .not rj _ => rj
  | .shra rj _ => rj
  | .comp rj _ => rj
  | .jump rj _ => rj
  | .jneg rj _ => rj
  | .jzer rj _ => rj
  | .jpos rj _ => rj
  | .jnneg rj _ => rj
  | .jnzer rj _ => rj
  | .jnpos rj _ => rj
  | .jles rj _ => rj
  | .jequ rj _ => rj
  | .jgre rj _ => rj
  | .jnles rj _ => rj
  | .jnequ rj _ => rj
  | .jngre rj _ => rj
  | .call rj _ => rj
  | .exit rj _ => rj
  | .push rj _ => rj
  | .pop rj _ => rj
  | .pushr rj _ => rj
  | .popr rj _ => rj
  | .svc rj _ => rj

/-- The second operand of an instruction (R50). -/
def Instr.operand : Instr → Operand
  | .nop _ op => op
  | .store _ op => op
  | .load _ op => op
  | .inp _ op => op
  | .out _ op => op
  | .add _ op => op
  | .sub _ op => op
  | .mul _ op => op
  | .div _ op => op
  | .mod _ op => op
  | .and _ op => op
  | .or _ op => op
  | .xor _ op => op
  | .shl _ op => op
  | .shr _ op => op
  | .not _ op => op
  | .shra _ op => op
  | .comp _ op => op
  | .jump _ op => op
  | .jneg _ op => op
  | .jzer _ op => op
  | .jpos _ op => op
  | .jnneg _ op => op
  | .jnzer _ op => op
  | .jnpos _ op => op
  | .jles _ op => op
  | .jequ _ op => op
  | .jgre _ op => op
  | .jnles _ op => op
  | .jnequ _ op => op
  | .jngre _ op => op
  | .call _ op => op
  | .exit _ op => op
  | .push _ op => op
  | .pop _ op => op
  | .pushr _ op => op
  | .popr _ op => op
  | .svc _ op => op

end Sys2Proof
end

