-- ==== Sys2Proof/WellFormed.lean ====
section
/-! DEFINITION. Which instructions an instruction word can hold (spec/30_encoding.md R51, R66). The
restrictions of the symbolic language are in Machine/Assembler.lean. -/

namespace Sys2Proof

/-- The range of a signed 16-bit constant: "-32768...32767" (R51, R66). -/
abbrev addrInRange (addr : Int) : Prop := -32768 ≤ addr ∧ addr ≤ 32767

/-- An instruction is well formed when its constant fits the field ADDR. Every other field is
exact in its type: registers are 0 to 7, and M is one of the three modes (R50 to R52). -/
abbrev Instr.WellFormed (i : Instr) : Prop := addrInRange i.operand.addr

end Sys2Proof
end

