-- ==== Sys2Proof/Decode.lean ====
section
/-! DEFINITION. From an instruction word to the instruction it stands for, total, rejecting by name,
and back (spec/30_encoding.md R50 to R56). -/

namespace Sys2Proof

/-- Why a word is no instruction; both become the fault IllegalInstruction (R55). -/
inductive DecodeError where
  /-- the opcode field is none of the 38 assigned values (R55) -/
  | unknownOpcode (opcode : Nat)
  /-- the field M is 3 (R52, R55) -/
  | reservedMode
deriving DecidableEq, Repr

/-- `IR[31:24]` (R50). -/
def opcodeField (ir : Word) : Nat := (ir.extractLsb' 24 8).toNat

/-- `IR[23:21]`, the field Rj (R50). -/
def rjField (ir : Word) : Reg := ⟨(ir.extractLsb' 21 3).toNat, (ir.extractLsb' 21 3).isLt⟩

/-- `IR[20:19]`, the field M (R50). -/
def modeField (ir : Word) : Nat := (ir.extractLsb' 19 2).toNat

/-- `IR[18:16]`, the field Ri (R50). -/
def riField (ir : Word) : Reg := ⟨(ir.extractLsb' 16 3).toNat, (ir.extractLsb' 16 3).isLt⟩

/-- `IR[15:0]`, the signed constant ADDR (R50, R51). -/
def addrField (ir : Word) : Int := (ir.extractLsb' 0 16).toInt

/-- The addressing mode a value of the field M selects (R52). -/
def modeOf : Nat → Option Mode
  | 0 => some .immediate
  | 1 => some .direct
  | 2 => some .indirect
  | _ => none

/-- The operation an opcode selects (R56). -/
def operationOf : Nat → Option (Reg → Operand → Instr)
  | 0 => some .nop
  | 1 => some .store
  | 2 => some .load
  | 3 => some .inp
  | 4 => some .out
  | 17 => some .add
  | 18 => some .sub
  | 19 => some .mul
  | 20 => some .div
  | 21 => some .mod
  | 22 => some .and
  | 23 => some .or
  | 24 => some .xor
  | 25 => some .shl
  | 26 => some .shr
  | 27 => some .not
  | 28 => some .shra
  | 31 => some .comp
  | 32 => some .jump
  | 33 => some .jneg
  | 34 => some .jzer
  | 35 => some .jpos
  | 36 => some .jnneg
  | 37 => some .jnzer
  | 38 => some .jnpos
  | 39 => some .jles
  | 40 => some .jequ
  | 41 => some .jgre
  | 42 => some .jnles
  | 43 => some .jnequ
  | 44 => some .jngre
  | 49 => some .call
  | 50 => some .exit
  | 51 => some .push
  | 52 => some .pop
  | 53 => some .pushr
  | 54 => some .popr
  | 112 => some .svc
  | _ => none

/-- The instruction a word stands for. An unknown opcode is tested before M = 3 (R53, R55, R185). -/
def decode (ir : Word) : Except DecodeError Instr :=
  match operationOf (opcodeField ir) with
  | none => .error (.unknownOpcode (opcodeField ir))
  | some build =>
    match modeOf (modeField ir) with
    | none => .error .reservedMode
    | some mode => .ok (build (rjField ir) ⟨mode, riField ir, addrField ir⟩)

/-- The opcode of an instruction (R56). -/
def Instr.opcode : Instr → Nat
  | .nop _ _ => 0
  | .store _ _ => 1
  | .load _ _ => 2
  | .inp _ _ => 3
  | .out _ _ => 4
  | .add _ _ => 17
  | .sub _ _ => 18
  | .mul _ _ => 19
  | .div _ _ => 20
  | .mod _ _ => 21
  | .and _ _ => 22
  | .or _ _ => 23
  | .xor _ _ => 24
  | .shl _ _ => 25
  | .shr _ _ => 26
  | .not _ _ => 27
  | .shra _ _ => 28
  | .comp _ _ => 31
  | .jump _ _ => 32
  | .jneg _ _ => 33
  | .jzer _ _ => 34
  | .jpos _ _ => 35
  | .jnneg _ _ => 36
  | .jnzer _ _ => 37
  | .jnpos _ _ => 38
  | .jles _ _ => 39
  | .jequ _ _ => 40
  | .jgre _ _ => 41
  | .jnles _ _ => 42
  | .jnequ _ _ => 43
  | .jngre _ _ => 44
  | .call _ _ => 49
  | .exit _ _ => 50
  | .push _ _ => 51
  | .pop _ _ => 52
  | .pushr _ _ => 53
  | .popr _ _ => 54
  | .svc _ _ => 112

/-- The value of the field M that selects a mode (R52). -/
def Mode.code : Mode → Nat
  | .immediate => 0
  | .direct => 1
  | .indirect => 2

/-- The 16-bit two's-complement pattern of a constant, as a number (R51, R66). -/
def addrPattern (addr : Int) : Nat := (BitVec.ofInt 16 addr).toNat

/-- The word of an instruction, rebuilt from its five fields (R50). -/
def encode (i : Instr) : Word :=
  BitVec.ofNat 32 (i.opcode * 2 ^ 24 + i.rj.val * 2 ^ 21 + i.operand.mode.code * 2 ^ 19 +
    i.operand.ri.val * 2 ^ 16 + addrPattern i.operand.addr)

/-- The word whose low `nbits` bits are those of `w`, numbered as spec/opcode_table.json numbers
them (bit 0 least significant), and whose other bits are 0. An instruction is one word (R50). -/
def tableWord (nbits w : Nat) : Word := BitVec.ofNat 32 (w % 2 ^ nbits)

/-- The instruction the decoder reads from an instruction whose bits are `w`, if any. -/
def decodeTableWord (nbits w : Nat) : Option Instr := (decode (tableWord nbits w)).toOption

end Sys2Proof
end

