-- ==== Sys2Proof/Machine/State.lean ====
section
/-! DEFINITION. The whole state of the machine as plain data, its faults and refusals, and the state
right after reset (spec/10_state.md; spec/60_exceptions.md R180, R181; spec/70_reset_and_hazards.md
R200). -/

namespace Sys2Proof.Machine

/-- The faults of the machine (spec/60_exceptions.md R180). A fault ends the run, and the rest of
the state is unspecified (R181), so no state comes with one. Each is safe: the spec names it. -/
inductive Fault where
  /-- An access outside memory: any instruction's fetch or operand read, STORE, the stack and
  subroutine instructions, SVC (R32, R183). Carries the address word. Safe. -/
  | addressOutOfBounds (a : Word)
  /-- Decode: no assigned opcode, or M = 3 (R55, R184). Carries the instruction word. Safe. -/
  | illegalInstruction (ir : Word)
  /-- ADD, SUB, MUL, DIV: the result does not fit a word (R105). Safe. -/
  | integerOverflow
  /-- DIV, MOD: the second operand is 0 (R106). Safe. -/
  | divisionByZero
  /-- SHL, SHR, SHRA: the amount is not 0 to 31 (R103). Carries the amount. Safe. -/
  | shiftAmountOutOfRange (n : Int)
  /-- IN, OUT: no input, respectively output, device has this number (R83, R84). Safe. -/
  | invalidDevice (v : Word)
  /-- SVC: no service has this number (R159). Safe. -/
  | invalidService (v : Word)
  /-- IN, the service READ: the device has no more input. The replacement of the stuck state that
  the spec permits (R83, R194; log 8). Carries the device number. Safe. -/
  | inputExhausted (device : Word)
deriving DecidableEq, Repr

/-- Why a step has no meaning. -/
inductive Refusal where
  /-- An instruction that has no meaning in the model. No instruction is refused so. Safe. -/
  | notModelled (mnemonic : String)
  /-- The machine has halted: "No further step exists" (spec/10_state.md R20; log 11). Raised
  by the step alone. Safe. -/
  | halted
deriving DecidableEq, Repr

/-- The run state (spec/10_state.md R20). -/
inductive RunState where
  | running
  | halted
  | faulted (f : Fault)
deriving DecidableEq, Repr

/-- The state register: the three flags the last COMP left, and nothing else (R16, R17;
log 20). -/
structure StatusRegister where
  /-- `SR.L`, less -/
  l : Bool
  /-- `SR.E`, equal -/
  e : Bool
  /-- `SR.G`, greater -/
  g : Bool
deriving DecidableEq, Repr

/-- One word of memory at a word address. The word is the smallest addressable unit (R30), and
byte order does not exist (R33), so a cell is an address and a word. DESIGN CHOICE, safe (log 1). -/
abbrev Cell := Nat × Word

/-- The words of memory that the load or an instruction has written, addresses strictly rising.
An address that is not listed has not been written. -/
abbrev Memory := List Cell

/-- The canonical form of memory: addresses strictly rising. What an unlisted address looks up to
(`none`, no value) is no entry's value, so equal memories are equal lists. -/
abbrev Memory.wf (m : Memory) : Prop := m.Pairwise (fun c d => c.1 < d.1)

/-- `INPUT(d)`: the integers an input device has not yet delivered, a finite or infinite sequence of
words (R19; spec/92_eei_decisions.md, open parameters). DESIGN CHOICE, safe (log 21). -/
inductive InputSequence where
  /-- nothing is left -/
  | ended
  /-- this word is next -/
  | word (v : Word) (rest : InputSequence)
  /-- an infinite sequence from its word `position` on: the free values `Config.inputWord stream` -/
  | endless (stream position : Nat)
deriving DecidableEq, Repr

/-- The state: the tuple of spec/10_state.md, the parameters of the run (R22), and the model's own
count of draws. -/
structure State where
  /-- `x[0..7]` (R10) -/
  regs : Vector Word 8
  /-- `pc` (R14) -/
  pc : Word
  /-- `SR` (R16) -/
  sr : StatusRegister
  /-- `Mem` (R18) -/
  mem : Memory
  /-- `run` (R20) -/
  run : RunState
  /-- `INPUT(KBD)`: the words not yet consumed (R19) -/
  inputKbd : InputSequence
  /-- `INPUT(STDIN)`: the words not yet consumed (R19) -/
  inputStdin : InputSequence
  /-- `OUTPUT(CRT)`: the words written so far, oldest first (R19) -/
  outputCrt : List Word
  /-- `OUTPUT(STDOUT)`: the words written so far, oldest first (R19) -/
  outputStdout : List Word
  /-- the parameters of the run (R3, R22) -/
  params : Params
  /-- The MODEL's own field: how many free values the run has drawn (log 9). -/
  draws : Nat
deriving DecidableEq, Repr

/-- The state after reset with the empty image and the parameters `Params.default`: the values of
spec/10_state.md R21, R6 being "the word with signed value −1" that R21 gives for an empty image.
The spec leaves R7 (`INIT_FP`) and the input sequences open: 0 and ended here. DESIGN CHOICE,
unsafe (log 5, log 7). A program comes to run by `State.load` (log 6). -/
def State.reset : State where
  regs := #v[0, 0, 0, 0, 0, 0, -1, 0]
  pc := 0
  sr := ⟨false, false, false⟩
  mem := []
  run := .running
  inputKbd := .ended
  inputStdin := .ended
  outputCrt := []
  outputStdout := []
  params := Params.default
  draws := 0

end Sys2Proof.Machine
end

