-- ==== Sys2Proof/Machine/Ops.lean ====
section
/-! DEFINITION. The named operations over registers, memory, the stack, the environment and the run
state that every meaning is written in (spec/00_scope.md section 5.2; spec/20_memory.md R31, R32;
spec/43_stack.md R130; spec/10_state.md R19; spec/60_exceptions.md R181). -/

namespace Sys2Proof.Machine

/-! ### Faults -/

/-- `raise F(info)`: the machine's one way of taking an exception. The run is over; no handler is
entered, nothing is saved, and the rest of the state is unspecified (R181, R188), so the answer is
the fault alone (log 10). There is no return from one (R191). -/
def raise (f : Fault) : Host.Outcome State Fault Refusal := .fault f

/-- The outcome of an instruction: its next state, or the first fault met in the order of its
pseudocode (R185). -/
def complete : Except Fault State → Host.Outcome State Fault Refusal
  | .ok s => .next s
  | .error f => raise f

/-! ### Registers -/

/-- `x[i]` (spec/00_scope.md section 5.2). -/
def State.reg (s : State) (i : Reg) : Word := s.regs[i.val]

/-- `x[i] <- v`. -/
def State.setReg (s : State) (i : Reg) (v : Word) : State := { s with regs := s.regs.set i.val v }

/-- `pc <- t`. -/
def State.setPc (s : State) (t : Word) : State := { s with pc := t }

/-- The three flags of SR, written together (R16). -/
def State.setSr (s : State) (sr : StatusRegister) : State := { s with sr := sr }

/-- `run <- r` (R20). -/
def State.setRun (s : State) (r : RunState) : State := { s with run := r }

/-! ### Memory -/

/-- The word an address was last given, if it was given one. -/
def Memory.lookup : Memory → Nat → Option Word
  | [], _ => none
  | (b, w) :: m, a => if a = b then some w else Memory.lookup m a

/-- Give an address a word, keeping the addresses strictly rising. -/
def Memory.write : Memory → Nat → Word → Memory
  | [], a, v => [(a, v)]
  | (b, w) :: m, a, v =>
    if a < b then (a, v) :: (b, w) :: m
    else if a = b then (a, v) :: m
    else (b, w) :: Memory.write m a v

/-- What a memory holds at an address: the word last written there, or what it held at launch
(R21, R32). -/
def Memory.word (m : Memory) (a : Nat) : Word := (Memory.lookup m a).getD (Config.initialWord a)

/-- `Mem[a]` (R32). -/
def State.word (s : State) (a : Nat) : Word := Memory.word s.mem a

/-- `Mem[a] <- v`; all 32 bits are replaced (R32). -/
def State.setWord (s : State) (a : Nat) (v : Word) : State :=
  { s with mem := Memory.write s.mem a v }

/-- An address word is valid when `0 ≤ s(a) < MEM_WORDS` (R31). -/
abbrev State.ValidAddress (s : State) (a : Word) : Prop :=
  0 ≤ a.toInt ∧ a.toInt < s.params.memWords

/-- `MemRead(a, 1)` (R32). -/
def State.memRead (s : State) (a : Word) : Except Fault Word :=
  if s.ValidAddress a then .ok (s.word a.toNat) else .error (.addressOutOfBounds a)

/-- `MemWrite(a, 1, v)` (R32). -/
def State.memWrite (s : State) (a v : Word) : Except Fault State :=
  if s.ValidAddress a then .ok (s.setWord a.toNat v) else .error (.addressOutOfBounds a)

/-- The fetch of the step, `MemRead(pc, 1)`: a read like any other (R39, R53). -/
def State.fetch (s : State) : Except Fault Word := s.memRead s.pc

/-- `pc <- wrap32(pc + 1)`, right after the fetch (R15, R53). -/
def State.advancePc (s : State) : State := s.setPc (s.pc + 1)

/-! ### The stack (R130): `x[j]` holds the address of the top cell and grows upward -/

/-- `x[j] <- wrap32(x[j] + 1)`; the sum wraps and raises nothing (R130). -/
def State.growStack (s : State) (j : Reg) : State := s.setReg j (s.reg j + 1)

/-- `x[j] <- wrap32(x[j] - n)`; the difference wraps and raises nothing (R130, R142). -/
def State.dropStack (s : State) (j : Reg) (n : Word) : State := s.setReg j (s.reg j - n)

/-- `x[j] <- wrap32(x[j] + 1)`, then `MemWrite(x[j], 1, v)`, where the value pushed is `v` of the
state whose stack has already grown: PUSHR and CALL read a pushed register at that moment
(R133, R141). -/
def State.pushFrom (s : State) (j : Reg) (v : State → Word) : Except Fault State :=
  (s.growStack j).memWrite ((s.growStack j).reg j) (v (s.growStack j))

/-- `x[k] <- MemRead(x[j], 1)`, then `x[j] <- wrap32(x[j] - 1)`, in this order also when `k = j`
(R132, R134). -/
def State.popInto (s : State) (j k : Reg) : Except Fault State := do
  let v ← s.memRead (s.reg j)
  return (s.setReg k v).dropStack j 1

/-! ### The environment (R19) -/

/-- The input device a number names, if any (R83; log 17). -/
def inputDeviceOf (p : Params) (v : Word) : Option InputDevice :=
  if v = p.devKbd then some .kbd else if v = p.devStdin then some .stdin else none

/-- The output device a number names, if any (R84; log 17). -/
def outputDeviceOf (p : Params) (v : Word) : Option OutputDevice :=
  if v = p.devCrt then some .crt else if v = p.devStdout then some .stdout else none

/-- The service a number names, if any (R151; log 17). -/
def serviceOf (p : Params) (v : Word) : Option Service :=
  if v = p.svcHalt then some .halt
  else if v = p.svcRead then some .read
  else if v = p.svcWrite then some .write
  else if v = p.svcTime then some .time
  else if v = p.svcDate then some .date
  else none

/-- The number of an input device (R3). -/
def inputNumber (p : Params) : InputDevice → Word
  | .kbd => p.devKbd
  | .stdin => p.devStdin

/-- A sequence that begins with the words of a list. -/
def InputSequence.prepend (ws : List Word) (rest : InputSequence) : InputSequence :=
  ws.foldr .word rest

/-- The first element of a sequence and what remains without it, if anything is left (R19, R83). -/
def InputSequence.take : InputSequence → Option (Word × InputSequence)
  | .ended => none
  | .word v rest => some (v, rest)
  | .endless stream position =>
    some (Config.inputWord stream position, .endless stream (position + 1))

/-- `INPUT(d)` (R19). -/
def State.input (s : State) : InputDevice → InputSequence
  | .kbd => s.inputKbd
  | .stdin => s.inputStdin

/-- `INPUT(d) <- ws`. -/
def State.setInput (s : State) (d : InputDevice) (ws : InputSequence) : State :=
  match d with
  | .kbd => { s with inputKbd := ws }
  | .stdin => { s with inputStdin := ws }

/-- `OUTPUT(d)` (R19). -/
def State.output (s : State) : OutputDevice → List Word
  | .crt => s.outputCrt
  | .stdout => s.outputStdout

/-- `In(d)`: remove and return the head of `INPUT(d)`; with nothing left, the fault that stands for
the stuck state (R83, R194; log 8). -/
def State.takeInput (s : State) (d : InputDevice) : Except Fault (Word × State) :=
  match (s.input d).take with
  | none => .error (.inputExhausted (inputNumber s.params d))
  | some (v, rest) => .ok (v, s.setInput d rest)

/-- `Out(d, v)`: append the word to `OUTPUT(d)` (R84). -/
def State.putOutput (s : State) (d : OutputDevice) (v : Word) : State :=
  match d with
  | .crt => { s with outputCrt := s.outputCrt ++ [v] }
  | .stdout => { s with outputStdout := s.outputStdout ++ [v] }

/-- The value the next draw gives: any word (R153, R156). -/
def State.drawn (s : State) (k : Nat) : Word := Config.freeWord (s.draws + k)

/-- `n` values have been drawn. -/
def State.spendDraws (s : State) (n : Nat) : State := { s with draws := s.draws + n }

end Sys2Proof.Machine
end

