-- ==== Sys2Proof/Machine/Operands.lean ====
section
/-! DEFINITION. The second operand (spec/30_encoding.md R54; spec/10_state.md R12): the same
evaluation for every opcode, whether or not the operation uses the value. -/

namespace Sys2Proof.Machine

/-- `idx(i)`: register R0 is zero as an index register, and only then (R12). -/
def State.index (s : State) (i : Reg) : Word := if i = 0 then 0 else s.reg i

/-- `TA`, the sum of the constant and the index register, wrapping and raising nothing (R54). -/
def State.indexedAddress (s : State) (op : Operand) : Word :=
  wrap32 (op.addr + (s.index op.ri).toInt)

/-- `V`, with zero, one or two memory reads (R52, R54). -/
def State.operandValue (s : State) (op : Operand) : Except Fault Word :=
  match op.mode with
  | .immediate => .ok (s.indexedAddress op)
  | .direct => s.memRead (s.indexedAddress op)
  | .indirect => do
    let t ← s.memRead (s.indexedAddress op)
    s.memRead t

/-- Evaluate the second operand, then run the operation on its value: the last two lines of the
step (R53). A fault of the evaluation comes before any of the operation (R185). -/
def withOperand (op : Operand) (s : State) (operation : Word → Except Fault State) :
    Host.Outcome State Fault Refusal :=
  complete (do
    let v ← s.operandValue op
    operation v)

end Sys2Proof.Machine
end

