-- ==== Sys2Proof/Machine/Flags.lean ====
section
/-! DEFINITION. The flags of SR: what COMP writes, and the conditions the jumps test
(spec/41_arithmetic_logic.md R104; spec/42_branching.md R112 to R123). -/

namespace Sys2Proof.Machine

/-- The flags of a signed comparison: exactly one is set (R104). -/
def compareFlags (x v : Word) : StatusRegister where
  l := decide (x.toInt < v.toInt)
  e := decide (x.toInt = v.toInt)
  g := decide (x.toInt > v.toInt)

/-- The condition of JNEG: `s(x[j]) < 0` (R112). -/
def isNegative (x : Word) : Bool := decide (x.toInt < 0)

/-- The condition of JZER: `s(x[j]) = 0` (R113). -/
def isZero (x : Word) : Bool := decide (x.toInt = 0)

/-- The condition of JPOS: `s(x[j]) > 0` (R114). -/
def isPositive (x : Word) : Bool := decide (x.toInt > 0)

/-- The condition of JNNEG: `s(x[j]) >= 0` (R115). -/
def isNotNegative (x : Word) : Bool := decide (x.toInt ≥ 0)

/-- The condition of JNZER: `s(x[j]) != 0` (R116). -/
def isNotZero (x : Word) : Bool := decide (x.toInt ≠ 0)

/-- The condition of JNPOS: `s(x[j]) <= 0` (R117). -/
def isNotPositive (x : Word) : Bool := decide (x.toInt ≤ 0)

/-- The condition of JNLES: "if bit E or G is set" (R121), not the negation of L (R124). -/
def StatusRegister.notLess (sr : StatusRegister) : Bool := sr.e || sr.g

/-- The condition of JNEQU: "if bit L or G is set" (R122). -/
def StatusRegister.notEqual (sr : StatusRegister) : Bool := sr.l || sr.g

/-- The condition of JNGRE: "if bit L or E is set" (R123). -/
def StatusRegister.notGreater (sr : StatusRegister) : Bool := sr.l || sr.e

end Sys2Proof.Machine
end

