-- ==== Sys2Proof/Machine/Arithmetic.lean ====
section
/-! DEFINITION. ADD, SUB, MUL, DIV, MOD, AND, OR, XOR, NOT, SHL, SHR, SHRA, COMP
(spec/41_arithmetic_logic.md R90 to R106): the result of each operation on two words, and the
instructions that write it to Rj. -/

namespace Sys2Proof.Machine

/-- An exact result, or IntegerOverflow when it does not fit a word (R105). -/
def narrow (r : Int) : Except Fault Word :=
  if fits32 r then .ok (wrap32 r) else .error .integerOverflow

/-- The result of ADD (R91). -/
def addResult (x v : Word) : Except Fault Word := narrow (x.toInt + v.toInt)

/-- The result of SUB (R92). -/
def subResult (x v : Word) : Except Fault Word := narrow (x.toInt - v.toInt)

/-- The result of MUL: the full product, narrowed (R93). -/
def mulResult (x v : Word) : Except Fault Word := narrow (x.toInt * v.toInt)

/-- The result of DIV: the quotient rounded toward zero (R94, R106). -/
def divResult (x v : Word) : Except Fault Word :=
  if v.toInt = 0 then .error .divisionByZero else narrow (x.toInt.tdiv v.toInt)

/-- The result of MOD: the remainder of that quotient, with the sign of the dividend (R95, R106). -/
def modResult (x v : Word) : Except Fault Word :=
  if v.toInt = 0 then .error .divisionByZero
  else .ok (wrap32 (x.toInt - x.toInt.tdiv v.toInt * v.toInt))

/-- A shift by `n = s(V)` positions, or ShiftAmountOutOfRange when `n` is not 0 to 31 (R103). -/
def shiftBy (v : Word) (shifted : Nat → Int) : Except Fault Word :=
  if 0 ≤ v.toInt ∧ v.toInt ≤ 31 then .ok (wrap32 (shifted v.toInt.toNat))
  else .error (.shiftAmountOutOfRange v.toInt)

/-- The result of SHL: `u(x) * 2^n`, bits lost at the left (R100). -/
def shlResult (x v : Word) : Except Fault Word := shiftBy v fun n => (x.toNat : Int) * 2 ^ n

/-- The result of SHR: `floor(u(x) / 2^n)`, zeros entering at the left (R101). -/
def shrResult (x v : Word) : Except Fault Word := shiftBy v fun n => (x.toNat : Int) / 2 ^ n

/-- The result of SHRA: `floor(s(x) / 2^n)`, toward minus infinity (R102). -/
def shraResult (x v : Word) : Except Fault Word := shiftBy v fun n => x.toInt.fdiv (2 ^ n)

/-- `x[j] <- r` for the result `r` of an operation on `x[j]` and `V`; a fault of the operation
writes nothing (R105, R106, R103). -/
def operate (result : Word → Word → Except Fault Word) (rj : Reg) (op : Operand) (s : State) :
    Host.Outcome State Fault Refusal :=
  withOperand op s fun v => do
    let r ← result (s.reg rj) v
    return s.setReg rj r

/-- ADD (R91). -/
def execAdd (rj : Reg) (op : Operand) (s : State) : Host.Outcome State Fault Refusal :=
  operate addResult rj op s

/-- SUB (R92). -/
def execSub (rj : Reg) (op : Operand) (s : State) : Host.Outcome State Fault Refusal :=
  operate subResult rj op s

/-- MUL (R93). -/
def execMul (rj : Reg) (op : Operand) (s : State) : Host.Outcome State Fault Refusal :=
  operate mulResult rj op s

/-- DIV (R94). -/
def execDiv (rj : Reg) (op : Operand) (s : State) : Host.Outcome State Fault Refusal :=
  operate divResult rj op s

/-- MOD (R95). -/
def execMod (rj : Reg) (op : Operand) (s : State) : Host.Outcome State Fault Refusal :=
  operate modResult rj op s

/-- AND, bit by bit (R96). -/
def execAnd (rj : Reg) (op : Operand) (s : State) : Host.Outcome State Fault Refusal :=
  operate (fun x v => .ok (x &&& v)) rj op s

/-- OR, bit by bit (R97). -/
def execOr (rj : Reg) (op : Operand) (s : State) : Host.Outcome State Fault Refusal :=
  operate (fun x v => .ok (x ||| v)) rj op s

/-- XOR, bit by bit (R98). -/
def execXor (rj : Reg) (op : Operand) (s : State) : Host.Outcome State Fault Refusal :=
  operate (fun x v => .ok (x ^^^ v)) rj op s

/-- NOT: every bit of Rj inverted; `V` is evaluated and ignored (R99, R58). -/
def execNot (rj : Reg) (op : Operand) (s : State) : Host.Outcome State Fault Refusal :=
  operate (fun x _ => .ok (~~~x)) rj op s

/-- SHL (R100). -/
def execShl (rj : Reg) (op : Operand) (s : State) : Host.Outcome State Fault Refusal :=
  operate shlResult rj op s

/-- SHR (R101). -/
def execShr (rj : Reg) (op : Operand) (s : State) : Host.Outcome State Fault Refusal :=
  operate shrResult rj op s

/-- SHRA (R102). -/
def execShra (rj : Reg) (op : Operand) (s : State) : Host.Outcome State Fault Refusal :=
  operate shraResult rj op s

/-- COMP: the flags of the signed comparison of `x[j]` with `V`; no register is written (R104). -/
def execComp (rj : Reg) (op : Operand) (s : State) : Host.Outcome State Fault Refusal :=
  withOperand op s fun v => .ok (s.setSr (compareFlags (s.reg rj) v))

end Sys2Proof.Machine
end

