-- ==== Sys2Proof/Machine/Branching.lean ====
section
/-! DEFINITION. The thirteen jumps (spec/42_branching.md R110 to R124). -/

namespace Sys2Proof.Machine

/-- A jump: `pc <- V` when taken, nothing otherwise. The operand is evaluated either way, the
target is absolute and is not checked here (R110). -/
def jumpIf (taken : Bool) (op : Operand) (s : State) : Host.Outcome State Fault Refusal :=
  withOperand op s fun v => .ok (if taken then s.setPc v else s)

/-- JUMP: always taken; Rj is ignored (R111, R58). -/
def execJump (_rj : Reg) (op : Operand) (s : State) : Host.Outcome State Fault Refusal :=
  jumpIf true op s

/-- JNEG: taken when `x[j]` is negative; Rj = R0 is the real R0 (R112). -/
def execJneg (rj : Reg) (op : Operand) (s : State) : Host.Outcome State Fault Refusal :=
  jumpIf (isNegative (s.reg rj)) op s

/-- JZER: taken when `x[j]` is zero; Rj = R0 is the real R0 (R113). -/
def execJzer (rj : Reg) (op : Operand) (s : State) : Host.Outcome State Fault Refusal :=
  jumpIf (isZero (s.reg rj)) op s

/-- JPOS: taken when `x[j]` is positive; Rj = R0 is the real R0 (R114). -/
def execJpos (rj : Reg) (op : Operand) (s : State) : Host.Outcome State Fault Refusal :=
  jumpIf (isPositive (s.reg rj)) op s

/-- JNNEG: taken when `x[j]` is not negative; Rj = R0 is the real R0 (R115). -/
def execJnneg (rj : Reg) (op : Operand) (s : State) : Host.Outcome State Fault Refusal :=
  jumpIf (isNotNegative (s.reg rj)) op s

/-- JNZER: taken when `x[j]` is not zero; Rj = R0 is the real R0 (R116). -/
def execJnzer (rj : Reg) (op : Operand) (s : State) : Host.Outcome State Fault Refusal :=
  jumpIf (isNotZero (s.reg rj)) op s

/-- JNPOS: taken when `x[j]` is not positive; Rj = R0 is the real R0 (R117). -/
def execJnpos (rj : Reg) (op : Operand) (s : State) : Host.Outcome State Fault Refusal :=
  jumpIf (isNotPositive (s.reg rj)) op s

/-- JLES: taken when L is set; Rj is ignored (R118, R58). -/
def execJles (_rj : Reg) (op : Operand) (s : State) : Host.Outcome State Fault Refusal :=
  jumpIf s.sr.l op s

/-- JEQU: taken when E is set; Rj is ignored (R119, R58). -/
def execJequ (_rj : Reg) (op : Operand) (s : State) : Host.Outcome State Fault Refusal :=
  jumpIf s.sr.e op s

/-- JGRE: taken when G is set; Rj is ignored (R120, R58). -/
def execJgre (_rj : Reg) (op : Operand) (s : State) : Host.Outcome State Fault Refusal :=
  jumpIf s.sr.g op s

/-- JNLES: taken when E or G is set; Rj is ignored (R121, R58). -/
def execJnles (_rj : Reg) (op : Operand) (s : State) : Host.Outcome State Fault Refusal :=
  jumpIf s.sr.notLess op s

/-- JNEQU: taken when L or G is set; Rj is ignored (R122, R58). -/
def execJnequ (_rj : Reg) (op : Operand) (s : State) : Host.Outcome State Fault Refusal :=
  jumpIf s.sr.notEqual op s

/-- JNGRE: taken when L or E is set; Rj is ignored (R123, R58). -/
def execJngre (_rj : Reg) (op : Operand) (s : State) : Host.Outcome State Fault Refusal :=
  jumpIf s.sr.notGreater op s

end Sys2Proof.Machine
end

