-- ==== Sys2Proof/Machine/DataTransfer.lean ====
section
/-! DEFINITION. LOAD, STORE, IN, OUT (spec/40_data_transfer.md R81 to R84). -/

namespace Sys2Proof.Machine

/-- LOAD: `x[j] <- V` (R81). -/
def execLoad (rj : Reg) (op : Operand) (s : State) : Host.Outcome State Fault Refusal :=
  withOperand op s fun v => .ok (s.setReg rj v)

/-- STORE: `MemWrite(V, 1, x[j])`; the operand's value is the address (R82, R54). -/
def execStore (rj : Reg) (op : Operand) (s : State) : Host.Outcome State Fault Refusal :=
  withOperand op s fun v => s.memWrite v (s.reg rj)

/-- IN: `x[j] <- In(V)` when `V` names an input device (R83). -/
def execIn (rj : Reg) (op : Operand) (s : State) : Host.Outcome State Fault Refusal :=
  withOperand op s fun v =>
    match inputDeviceOf s.params v with
    | none => .error (.invalidDevice v)
    | some d => do
      let (w, s') ← s.takeInput d
      return s'.setReg rj w

/-- OUT: `Out(V, x[j])` when `V` names an output device (R84). -/
def execOut (rj : Reg) (op : Operand) (s : State) : Host.Outcome State Fault Refusal :=
  withOperand op s fun v =>
    match outputDeviceOf s.params v with
    | none => .error (.invalidDevice v)
    | some d => .ok (s.putOutput d (s.reg rj))

end Sys2Proof.Machine
end

