-- ==== Sys2Proof/Machine/Other.lean ====
section
/-! DEFINITION. NOP (spec/46_other.md R165). -/

namespace Sys2Proof.Machine

/-- NOP: nothing, but the second operand is evaluated as for every opcode (R165, R58). -/
def execNop (_rj : Reg) (op : Operand) (s : State) : Host.Outcome State Fault Refusal :=
  withOperand op s fun _ => .ok s

end Sys2Proof.Machine
end

