-- ==== Sys2Proof/Machine/Stack.lean ====
section
/-! DEFINITION. PUSH, POP, PUSHR, POPR (spec/43_stack.md R130 to R134). -/

namespace Sys2Proof.Machine

/-- Push the registers of a list in its order, each read at the moment it is pushed (R133). -/
def State.pushAll (s : State) (j : Reg) : List Reg → Except Fault State
  | [] => .ok s
  | k :: ks => do
    let s' ← s.pushFrom j fun t => t.reg k
    s'.pushAll j ks

/-- Pop into the registers of a list in its order (R134). -/
def State.popAll (s : State) (j : Reg) : List Reg → Except Fault State
  | [] => .ok s
  | k :: ks => do
    let s' ← s.popInto j k
    s'.popAll j ks

/-- PUSH: grow the stack of Rj by one and store `V`, evaluated before, as its top cell (R131). -/
def execPush (rj : Reg) (op : Operand) (s : State) : Host.Outcome State Fault Refusal :=
  withOperand op s fun v => s.pushFrom rj fun _ => v

/-- POP: the top cell of the stack of Rj goes to the real register the field Ri names, R0 included;
then Rj drops by one. `V` is evaluated and ignored (R132, R58). -/
def execPop (rj : Reg) (op : Operand) (s : State) : Host.Outcome State Fault Refusal :=
  withOperand op s fun _ => s.popInto rj op.ri

/-- PUSHR: push R0 to R6 in rising order on the stack of Rj; `V` is ignored (R133). -/
def execPushr (rj : Reg) (op : Operand) (s : State) : Host.Outcome State Fault Refusal :=
  withOperand op s fun _ => s.pushAll rj [0, 1, 2, 3, 4, 5, 6]

/-- POPR: pop into R6 down to R0 from the stack of Rj; `V` is ignored (R134). -/
def execPopr (rj : Reg) (op : Operand) (s : State) : Host.Outcome State Fault Refusal :=
  withOperand op s fun _ => s.popAll rj [6, 5, 4, 3, 2, 1, 0]

end Sys2Proof.Machine
end

