-- ==== Sys2Proof/Machine/Subroutine.lean ====
section
/-! DEFINITION. CALL and EXIT (spec/44_subroutine.md R140 to R143). -/

namespace Sys2Proof.Machine

/-- CALL: push the return address, push the caller's FP, go to `V`, and let FP be the new top of the
stack. The FP is read after the stack pointer has grown for it, which shows when Rj is R7
(R141; log 12). -/
def execCall (rj : Reg) (op : Operand) (s : State) : Host.Outcome State Fault Refusal :=
  withOperand op s fun v => do
    let s1 ← s.pushFrom rj fun t => t.pc
    let s2 ← s1.pushFrom rj fun t => t.reg .fp
    return (s2.setPc v).setReg .fp (s2.reg rj)

/-- EXIT: pop FP, pop the pc, then drop the `V` parameters. With Rj = R7 the FP popped is the stack
pointer from there on (R142). -/
def execExit (rj : Reg) (op : Operand) (s : State) : Host.Outcome State Fault Refusal :=
  withOperand op s fun v => do
    let s1 ← s.popInto rj .fp
    let t ← s1.memRead (s1.reg rj)
    return ((s1.setPc t).dropStack rj 1).dropStack rj v

end Sys2Proof.Machine
end

