-- ==== Sys2Proof/Machine/SystemCall.lean ====
section
/-! DEFINITION. SVC and its five services (spec/45_system_calls.md R150 to R159): the whole service
is one step of the environment. In each service `top` is `x[j]` at the call. -/

namespace Sys2Proof.Machine

/-- `Scratch(s)`: the two words above the top of the stack must be valid and receive any word
(R153). -/
def State.scratch (s : State) (top : Word) : Except Fault State := do
  let s1 ← s.memWrite (top + 1) (s.drawn 0)
  let s2 ← s1.memWrite (top + 2) (s.drawn 1)
  return s2.spendDraws 2

/-- HALT: `run <- Halted` (R154). -/
def serviceHalt (s : State) : Except Fault State := .ok (s.setRun .halted)

/-- READ: the next integer of the keyboard goes to the address on top of the stack (R155). -/
def serviceRead (rj : Reg) (top : Word) (s : State) : Except Fault State := do
  let addr ← s.memRead top
  let (v, s1) ← s.takeInput .kbd
  let s2 ← s1.memWrite addr v
  return s2.setReg rj (top - 1)

/-- WRITE: the value on top of the stack goes to the screen (R158). -/
def serviceWrite (rj : Reg) (top : Word) (s : State) : Except Fault State := do
  let v ← s.memRead top
  return (s.putOutput .crt v).setReg rj (top - 1)

/-- The common shape of TIME and DATE: three addresses on the stack, the last listed on top; the
three answers of the clock, any words, are written in the order listed (R152, R156, R157). -/
def serviceClock (rj : Reg) (top : Word) (s : State) : Except Fault State := do
  let third ← s.memRead top
  let second ← s.memRead (top - 1)
  let first ← s.memRead (top - 2)
  let s1 ← s.memWrite first (s.drawn 0)
  let s2 ← s1.memWrite second (s.drawn 1)
  let s3 ← s2.memWrite third (s.drawn 2)
  return (s3.spendDraws 3).setReg rj (top - 3)

/-- TIME: hours, minutes, seconds (R156). -/
def serviceTime (rj : Reg) (top : Word) (s : State) : Except Fault State := serviceClock rj top s

/-- DATE: day, month, year (R157). -/
def serviceDate (rj : Reg) (top : Word) (s : State) : Except Fault State := serviceClock rj top s

/-- The rule of each service (R151). -/
def runService (rj : Reg) (top : Word) (s : State) : Service → Except Fault State
  | .halt => serviceHalt s
  | .read => serviceRead rj top s
  | .write => serviceWrite rj top s
  | .time => serviceTime rj top s
  | .date => serviceDate rj top s

/-- SVC: an unknown service number faults before anything else; otherwise the scratch words, then
the service (R151, R159, R185). -/
def execSvc (rj : Reg) (op : Operand) (s : State) : Host.Outcome State Fault Refusal :=
  withOperand op s fun v =>
    match serviceOf s.params v with
    | none => .error (.invalidService v)
    | some service => do
      let s1 ← s.scratch (s.reg rj)
      runService rj (s.reg rj) s1 service

end Sys2Proof.Machine
end

