-- ==== Sys2Proof/Machine/Dispatch.lean ====
section
/-! DEFINITION. What every instruction does, one arm per constructor. `pc` already names the
following word when an instruction runs (spec/30_encoding.md R53). -/

namespace Sys2Proof.Machine

def exec (i : Instr) (s : State) : Host.Outcome State Fault Refusal :=
  match i with
  | .nop rj op => Sys2Proof.Machine.execNop rj op s
  | .store rj op => Sys2Proof.Machine.execStore rj op s
  | .load rj op => Sys2Proof.Machine.execLoad rj op s
  | .inp rj op => Sys2Proof.Machine.execIn rj op s
  | .out rj op => Sys2Proof.Machine.execOut rj op s
  | .add rj op => Sys2Proof.Machine.execAdd rj op s
  | .sub rj op => Sys2Proof.Machine.execSub rj op s
  | .mul rj op => Sys2Proof.Machine.execMul rj op s
  | .div rj op => Sys2Proof.Machine.execDiv rj op s
  | .mod rj op => Sys2Proof.Machine.execMod rj op s
  | .and rj op => Sys2Proof.Machine.execAnd rj op s
  | .or rj op => Sys2Proof.Machine.execOr rj op s
  | .xor rj op => Sys2Proof.Machine.execXor rj op s
  | .shl rj op => Sys2Proof.Machine.execShl rj op s
  | .shr rj op => Sys2Proof.Machine.execShr rj op s
  | .not rj op => Sys2Proof.Machine.execNot rj op s
  | .shra rj op => Sys2Proof.Machine.execShra rj op s
  | .comp rj op => Sys2Proof.Machine.execComp rj op s
  | .jump rj op => Sys2Proof.Machine.execJump rj op s
  | .jneg rj op => Sys2Proof.Machine.execJneg rj op s
  | .jzer rj op => Sys2Proof.Machine.execJzer rj op s
  | .jpos rj op => Sys2Proof.Machine.execJpos rj op s
  | .jnneg rj op => Sys2Proof.Machine.execJnneg rj op s
  | .jnzer rj op => Sys2Proof.Machine.execJnzer rj op s
  | .jnpos rj op => Sys2Proof.Machine.execJnpos rj op s
  | .jles rj op => Sys2Proof.Machine.execJles rj op s
  | .jequ rj op => Sys2Proof.Machine.execJequ rj op s
  | .jgre rj op => Sys2Proof.Machine.execJgre rj op s
  | .jnles rj op => Sys2Proof.Machine.execJnles rj op s
  | .jnequ rj op => Sys2Proof.Machine.execJnequ rj op s
  | .jngre rj op => Sys2Proof.Machine.execJngre rj op s
  | .call rj op => Sys2Proof.Machine.execCall rj op s
  | .exit rj op => Sys2Proof.Machine.execExit rj op s
  | .push rj op => Sys2Proof.Machine.execPush rj op s
  | .pop rj op => Sys2Proof.Machine.execPop rj op s
  | .pushr rj op => Sys2Proof.Machine.execPushr rj op s
  | .popr rj op => Sys2Proof.Machine.execPopr rj op s
  | .svc rj op => Sys2Proof.Machine.execSvc rj op s

end Sys2Proof.Machine
end

