-- ==== Sys2Proof/Machine/Step.lean ====
section
/-! DEFINITION. One step of the machine (spec/30_encoding.md R53; spec/10_state.md R15, R20). -/

namespace Sys2Proof.Machine

/-- One step. Running: fetch, advance the pc, decode, execute; the order of these is the order in
which faults are detected (R53, R185). Halted: there is no step. Faulted: the fault stands
(R20, R181). -/
def step (s : State) : Host.Outcome State Fault Refusal :=
  match s.run with
  | .running =>
    match s.fetch with
    | .error f => raise f
    | .ok ir =>
      match decode ir with
      | .error _ => raise (.illegalInstruction ir)
      | .ok i => exec i s.advancePc
  | .halted => .refused .halted
  | .faulted f => raise f

/-- The state with the instruction word whose bits are `w` stored where the next step fetches: the
word of memory at `pc` (log 6). -/
def State.withFetchWord (s : State) (nbits w : Nat) : State :=
  s.setWord s.pc.toNat (tableWord nbits w)

end Sys2Proof.Machine
end

