-- ==== Sys2Proof/Machine/Assembler.lean ====
section
/-! DEFINITION. The symbolic machine language and its compiler control instructions, from parsed
lines to the program image (spec/30_encoding.md R60 to R68; spec/47_compiler_control.md R170 to
R175). Letter case, comments, separators and number bases are not settled by the spec (U27), so a
program is a list of parsed lines (log 18). -/

namespace Sys2Proof.Machine

/-! ### Parsed lines (R60, R61, R170) -/

/-- A label: its characters (R64). -/
abbrev Label := List Char

/-- A register name: R0 to R7, or one of the aliases SP and FP (R65). -/
inductive RegName where
  | r (i : Reg)
  | sp
  | fp
deriving DecidableEq, Repr

/-- What may stand for ADDR: a decimal integer or a symbol (R60). -/
inductive Const where
  | number (n : Int)
  | symbol (l : Label)
deriving DecidableEq, Repr

/-- The eight operand forms (R61). -/
inductive OperandForm where
  /-- `ADDR` -/
  | direct (a : Const)
  /-- `Ri` -/
  | register (ri : RegName)
  /-- `=ADDR` -/
  | immediate (a : Const)
  /-- `@ADDR` -/
  | indirect (a : Const)
  /-- `@Ri` -/
  | indirectRegister (ri : RegName)
  /-- `ADDR(Ri)` -/
  | indexed (a : Const) (ri : RegName)
  /-- `=ADDR(Ri)` -/
  | indexedImmediate (a : Const) (ri : RegName)
  /-- `@ADDR(Ri)` -/
  | indexedIndirect (a : Const) (ri : RegName)
deriving DecidableEq, Repr

/-- The 38 mnemonics (R56, R60). -/
inductive Mnemonic where
  | nop
  | store
  | load
  | inp
  | out
  | add
  | sub
  | mul
  | div
  | mod
  | and
  | or
  | xor
  | shl
  | shr
  | not
  | shra
  | comp
  | jump
  | jneg
  | jzer
  | jpos
  | jnneg
  | jnzer
  | jnpos
  | jles
  | jequ
  | jgre
  | jnles
  | jnequ
  | jngre
  | call
  | exit
  | push
  | pop
  | pushr
  | popr
  | svc
deriving DecidableEq, Repr

/-- The options of DEF (R174). -/
inductive DefOption where
  | stdin
  | stdout
deriving DecidableEq, Repr

/-- A line of the symbolic language: an instruction with an optional label and the operands the
programmer wrote (R60), or a compiler control instruction (R170 to R174). -/
inductive Line where
  | instruction (label : Option Label) (m : Mnemonic) (rj : Option RegName)
      (operand : Option OperandForm)
  | equ (label : Label) (value : Int)
  | dc (label : Label) (value : Int)
  | ds (label : Label) (size : Int)
  | define (option : DefOption) (path : List Char)
deriving DecidableEq, Repr

/-- Why no image is produced (U26). -/
inductive AsmError where
  /-- a label with a character outside R64, or with digits only -/
  | badLabel (l : Label)
  /-- two definitions of one label, R64 (log 14) -/
  | duplicateLabel (l : Label)
  /-- a symbol no line defines, in an operand that is read (log 14, log 16) -/
  | undefinedSymbol (l : Label)
  /-- a constant outside -32768 ... 32767, in an operand that is read (R66; log 16) -/
  | constantOutOfRange (n : Int)
  /-- STORE, a jump or CALL with a constant or a bare register (R62) -/
  | notAnAddress (m : Mnemonic)
  /-- POP with anything but a register (R63) -/
  | notARegister
  /-- a first operand left out where it is significant (R67) -/
  | missingRegister (m : Mnemonic)
  /-- a second operand left out where it is significant (R67) -/
  | missingOperand (m : Mnemonic)
  /-- a DC value that is no word (R172) -/
  | dcOutOfRange (n : Int)
  /-- a DS size that is not positive (R173) -/
  | dsSizeNotPositive (n : Int)
deriving DecidableEq, Repr

/-! ### Labels and symbols (R64, R65) -/

/-- The characters of a label: "letters A-Ö, numbers 0-9 and an underscore _" (R64). -/
def labelChar (c : Char) : Bool :=
  c.isUpper || c.isDigit || c == '_' || c == 'Å' || c == 'Ä' || c == 'Ö'

/-- A label has only these characters and at least one that is no digit (R64). -/
def labelOk (l : Label) : Bool := l.all labelChar && l.any fun c => !c.isDigit

/-- "Only the first 8 characters are significant" (R64). -/
def labelKey (l : Label) : Label := l.take 8

/-- Symbols and their values, by significant characters. -/
abbrev SymbolTable := List (Label × Int)

/-- The symbols the assembler knows in advance; each behaves like a label defined by EQU (R65). -/
def predefined (p : Params) : SymbolTable :=
  [(['K', 'B', 'D'], p.devKbd.toInt), (['C', 'R', 'T'], p.devCrt.toInt),
    (['S', 'T', 'D', 'I', 'N'], p.devStdin.toInt),
    (['S', 'T', 'D', 'O', 'U', 'T'], p.devStdout.toInt),
    (['H', 'A', 'L', 'T'], p.svcHalt.toInt), (['R', 'E', 'A', 'D'], p.svcRead.toInt),
    (['W', 'R', 'I', 'T', 'E'], p.svcWrite.toInt), (['T', 'I', 'M', 'E'], p.svcTime.toInt),
    (['D', 'A', 'T', 'E'], p.svcDate.toInt)]

/-- The register a name means: SP is R6 and FP is R7 (R65). -/
def RegName.reg : RegName → Reg
  | .r i => i
  | .sp => .sp
  | .fp => .fp

/-- How many instruction words a program has: `CODE_WORDS` (R175). -/
def codeWords : List Line → Nat
  | [] => 0
  | .instruction .. :: rest => codeWords rest + 1
  | _ :: rest => codeWords rest

/-- How many data words a program has: one for each DC, `size` for each DS (R175). -/
def dataWords : List Line → Nat
  | [] => 0
  | .dc .. :: rest => dataWords rest + 1
  | .ds _ size :: rest => dataWords rest + size.toNat
  | _ :: rest => dataWords rest

/-- The labels a program defines with their values, the next instruction word being at `code` and
the next data word at `data` (R171 to R175). EQU and DEF occupy no memory. -/
def definitions : List Line → Nat → Nat → SymbolTable
  | [], _, _ => []
  | .instruction (some l) _ _ _ :: rest, code, data =>
    (labelKey l, (code : Int)) :: definitions rest (code + 1) data
  | .instruction none _ _ _ :: rest, code, data => definitions rest (code + 1) data
  | .equ l value :: rest, code, data => (labelKey l, value) :: definitions rest code data
  | .dc l _ :: rest, code, data => (labelKey l, (data : Int)) :: definitions rest code (data + 1)
  | .ds l size :: rest, code, data =>
    (labelKey l, (data : Int)) :: definitions rest code (data + size.toNat)
  | .define .. :: rest, code, data => definitions rest code data

/-- The label a line defines, if any. -/
def Line.label : Line → Option Label
  | .instruction l _ _ _ => l
  | .equ l _ => some l
  | .dc l _ => some l
  | .ds l _ => some l
  | .define .. => none

/-- The first entry of a table whose key an earlier entry has. -/
def firstDuplicate : SymbolTable → List Label → Option Label
  | [], _ => none
  | (l, _) :: rest, seen => if l ∈ seen then some l else firstDuplicate rest (l :: seen)

/-- The value of a key. -/
def symbolValue : SymbolTable → Label → Option Int
  | [], _ => none
  | (k, n) :: rest, l => if k = l then some n else symbolValue rest l

/-- The number a constant stands for: the value "typed in the same place" (R171). -/
def constValue (table : SymbolTable) : Const → Except AsmError Int
  | .number n => .ok n
  | .symbol l =>
    if labelOk l then
      match symbolValue table (labelKey l) with
      | some n => .ok n
      | none => .error (.undefinedSymbol l)
    else .error (.badLabel l)

/-- The constant for the field ADDR, in range after symbols are replaced (R66). -/
def addrValue (table : SymbolTable) (a : Const) : Except AsmError Int := do
  let n ← constValue table a
  if addrInRange n then return n else throw (.constantOutOfRange n)

/-! ### Operands (R61 to R63, R67) -/

/-- The fields of the eight forms, for every mnemonic but STORE, the jumps and CALL (R61). -/
def valueOperand (table : SymbolTable) : OperandForm → Except AsmError Operand
  | .direct a => return ⟨.direct, 0, ← addrValue table a⟩
  | .register ri => return ⟨.immediate, ri.reg, 0⟩
  | .immediate a => return ⟨.immediate, 0, ← addrValue table a⟩
  | .indirect a => return ⟨.indirect, 0, ← addrValue table a⟩
  | .indirectRegister ri => return ⟨.direct, ri.reg, 0⟩
  | .indexed a ri => return ⟨.direct, ri.reg, ← addrValue table a⟩
  | .indexedImmediate a ri => return ⟨.immediate, ri.reg, ← addrValue table a⟩
  | .indexedIndirect a ri => return ⟨.indirect, ri.reg, ← addrValue table a⟩

/-- The fields for STORE, the jumps and CALL: the mode one less than written, no constant and no
bare register (R62). -/
def addressOperand (m : Mnemonic) (table : SymbolTable) : OperandForm → Except AsmError Operand
  | .direct a => return ⟨.immediate, 0, ← addrValue table a⟩
  | .indexed a ri => return ⟨.immediate, ri.reg, ← addrValue table a⟩
  | .indirectRegister ri => return ⟨.immediate, ri.reg, 0⟩
  | .indirect a => return ⟨.direct, 0, ← addrValue table a⟩
  | .indexedIndirect a ri => return ⟨.direct, ri.reg, ← addrValue table a⟩
  | .immediate _ => throw (.notAnAddress m)
  | .indexedImmediate _ _ => throw (.notAnAddress m)
  | .register _ => throw (.notAnAddress m)

/-- What the second operand of a mnemonic means (R61 to R63). -/
inductive OperandKind where
  | value
  | address
  | register
  | notSignificant
deriving DecidableEq, Repr

/-- Which mnemonics take which second operand (R61 to R63). -/
def Mnemonic.operandKind : Mnemonic → OperandKind
  | .nop => .notSignificant
  | .store => .address
  | .load => .value
  | .inp => .value
  | .out => .value
  | .add => .value
  | .sub => .value
  | .mul => .value
  | .div => .value
  | .mod => .value
  | .and => .value
  | .or => .value
  | .xor => .value
  | .shl => .value
  | .shr => .value
  | .not => .notSignificant
  | .shra => .value
  | .comp => .value
  | .jump => .address
  | .jneg => .address
  | .jzer => .address
  | .jpos => .address
  | .jnneg => .address
  | .jnzer => .address
  | .jnpos => .address
  | .jles => .address
  | .jequ => .address
  | .jgre => .address
  | .jnles => .address
  | .jnequ => .address
  | .jngre => .address
  | .call => .address
  | .exit => .value
  | .push => .value
  | .pop => .register
  | .pushr => .notSignificant
  | .popr => .notSignificant
  | .svc => .value

/-- What the assembler does with the first operand of a mnemonic. -/
inductive FirstOperandKind where
  /-- it must be written -/
  | required
  /-- it may be left out, and is then 0 (R63) -/
  | optional
  /-- the field Rj is 0 whatever is written: NOP (R63) -/
  | zero
deriving DecidableEq, Repr

/-- Which mnemonics need their first operand (R63, R67). -/
def Mnemonic.firstKind : Mnemonic → FirstOperandKind
  | .nop => .zero
  | .store => .required
  | .load => .required
  | .inp => .required
  | .out => .required
  | .add => .required
  | .sub => .required
  | .mul => .required
  | .div => .required
  | .mod => .required
  | .and => .required
  | .or => .required
  | .xor => .required
  | .shl => .required
  | .shr => .required
  | .not => .required
  | .shra => .required
  | .comp => .required
  | .jump => .optional
  | .jneg => .required
  | .jzer => .required
  | .jpos => .required
  | .jnneg => .required
  | .jnzer => .required
  | .jnpos => .required
  | .jles => .optional
  | .jequ => .optional
  | .jgre => .optional
  | .jnles => .optional
  | .jnequ => .optional
  | .jngre => .optional
  | .call => .required
  | .exit => .required
  | .push => .required
  | .pop => .required
  | .pushr => .required
  | .popr => .required
  | .svc => .required

/-- The instruction a mnemonic makes of its fields (R56). -/
def Mnemonic.build : Mnemonic → Reg → Operand → Instr
  | .nop => .nop
  | .store => .store
  | .load => .load
  | .inp => .inp
  | .out => .out
  | .add => .add
  | .sub => .sub
  | .mul => .mul
  | .div => .div
  | .mod => .mod
  | .and => .and
  | .or => .or
  | .xor => .xor
  | .shl => .shl
  | .shr => .shr
  | .not => .not
  | .shra => .shra
  | .comp => .comp
  | .jump => .jump
  | .jneg => .jneg
  | .jzer => .jzer
  | .jpos => .jpos
  | .jnneg => .jnneg
  | .jnzer => .jnzer
  | .jnpos => .jnpos
  | .jles => .jles
  | .jequ => .jequ
  | .jgre => .jgre
  | .jnles => .jnles
  | .jnequ => .jnequ
  | .jngre => .jngre
  | .call => .call
  | .exit => .exit
  | .push => .push
  | .pop => .pop
  | .pushr => .pushr
  | .popr => .popr
  | .svc => .svc

/-- The fields M, Ri and ADDR of an instruction line (R61 to R63, R67). An
operand written where it is not significant is dropped unread: neither the range of its constant nor
its symbol is checked. DESIGN CHOICE, unsafe (log 16). -/
def operandFields (table : SymbolTable) (m : Mnemonic) (operand : Option OperandForm) :
    Except AsmError Operand :=
  match m.operandKind, operand with
  | .value, some f => valueOperand table f
  | .value, none => throw (.missingOperand m)
  | .address, some f => addressOperand m table f
  | .address, none => throw (.missingOperand m)
  | .register, some (.register ri) => return ⟨.immediate, ri.reg, 0⟩
  | .register, some _ => throw .notARegister
  | .register, none => throw (.missingOperand m)
  | .notSignificant, _ => return ⟨.immediate, 0, 0⟩

/-- The field Rj of an instruction line (R63, R67). -/
def firstField (m : Mnemonic) (rj : Option RegName) : Except AsmError Reg :=
  match m.firstKind, rj with
  | .zero, _ => return 0
  | _, some name => return name.reg
  | .optional, none => return 0
  | .required, none => throw (.missingRegister m)

/-- The instruction of an instruction line; every mnemonic assembles to exactly one word (R68). -/
def assembleInstruction (table : SymbolTable) (m : Mnemonic) (rj : Option RegName)
    (operand : Option OperandForm) : Except AsmError Instr := do
  let j ← firstField m rj
  let op ← operandFields table m operand
  return m.build j op

/-! ### The program image (R175) -/

/-- What the assembler hands to the loader: the code words, then the data words (R175). -/
structure Image where
  code : List Word
  data : List Word
deriving DecidableEq, Repr

/-- `IMAGE`: the words the loader copies to addresses 0, 1, 2, … (R175). -/
def Image.words (image : Image) : List Word := image.code ++ image.data

/-- The instruction words of a program, in source order (R175). -/
def assembleCode (table : SymbolTable) : List Line → Except AsmError (List Word)
  | [] => .ok []
  | .instruction _ m rj operand :: rest => do
    let i ← assembleInstruction table m rj operand
    let ws ← assembleCode table rest
    return encode i :: ws
  | _ :: rest => assembleCode table rest

/-- The data words of a program, in source order: one for each DC (R172), `size` zeros for each DS
(R173, R175). -/
def assembleData : List Line → Except AsmError (List Word)
  | [] => .ok []
  | .dc _ value :: rest => do
    if fits32 value then
      let ws ← assembleData rest
      return wrap32 value :: ws
    else throw (.dcOutOfRange value)
  | .ds _ size :: rest => do
    if 0 < size then
      let ws ← assembleData rest
      return List.replicate size.toNat 0 ++ ws
    else throw (.dsSizeNotPositive size)
  | _ :: rest => assembleData rest

/-- Every label a program defines is well formed (R64). -/
def checkLabels : List Line → Except AsmError Unit
  | [] => .ok ()
  | line :: rest =>
    match line.label with
    | some l => if labelOk l then checkLabels rest else .error (.badLabel l)
    | none => checkLabels rest

/-- The symbols of a program: those known in advance and those its lines define, anywhere in it,
so that a symbol may be used before its line (R65, R175). -/
def symbolTable (p : Params) (lines : List Line) : SymbolTable :=
  predefined p ++ definitions lines 0 (codeWords lines)

/-- Assemble a program: first the symbols, then the words (R175). -/
def assemble (p : Params) (lines : List Line) : Except AsmError Image := do
  checkLabels lines
  match firstDuplicate (symbolTable p lines) [] with
  | some l => throw (.duplicateLabel l)
  | none =>
    let code ← assembleCode (symbolTable p lines) lines
    let data ← assembleData lines
    return ⟨code, data⟩

end Sys2Proof.Machine
end

