-- ==== Sys2Proof/Machine/Loader.lean ====
section
/-! DEFINITION. Loading a program image and resetting the processor, as one act of the environment
(spec/70_reset_and_hazards.md R200; spec/10_state.md R21). -/

namespace Sys2Proof.Machine

/-- The words of an image at rising addresses from `a` on. -/
def imageCells (a : Nat) : List Word → Memory
  | [] => []
  | w :: ws => (a, w) :: imageCells (a + 1) ws

/-- `Load(IMAGE)`: refused (`none`) when the image does not fit. `INIT_FP` and the input sequences
are the environment's to choose, so they are arguments (R3, R21). -/
def State.load (p : Params) (image : List Word) (initFp : Word) (kbd stdin : InputSequence) :
    Option State :=
  if image.length ≤ p.memWords then
    some
      { regs := #v[0, 0, 0, 0, 0, 0, wrap32 (image.length - 1), initFp]
        pc := 0
        sr := ⟨false, false, false⟩
        mem := imageCells 0 image
        run := .running
        inputKbd := kbd
        inputStdin := stdin
        outputCrt := []
        outputStdout := []
        params := p
        draws := 0 }
  else none

end Sys2Proof.Machine
end

