-- ==== Sys2Proof/Safety.lean ====
section
/-! DEFINITION. What a good state and a normal end are, and when a second operand can be read, in
the terms claims use (spec/10_state.md R16, R20; spec/20_memory.md R31; spec/30_encoding.md R54). -/

namespace Sys2Proof.Machine

/-- At most one of L, E and G is set: exactly one after a COMP, none before the first (R16). -/
abbrev StatusRegister.Legal (sr : StatusRegister) : Prop :=
  ¬(sr.l ∧ sr.e) ∧ ¬(sr.l ∧ sr.g) ∧ ¬(sr.e ∧ sr.g)

/-- Memory is in its canonical form and lists only addresses that exist (R31). -/
abbrev State.MemoryLegal (s : State) : Prop :=
  Memory.wf s.mem ∧ ∀ c ∈ s.mem, c.1 < s.params.memWords

/-- What holds of every state a run can reach: legal parameters (R3), legal memory (R31), legal
flags (R16), and no faulted run state, since a fault leaves no state behind (R181). -/
abbrev State.Inv (s : State) : Prop :=
  s.params.Valid ∧ s.MemoryLegal ∧ s.sr.Legal ∧ ∀ f, s.run ≠ .faulted f

/-- The only normal end of a run (R20, R154). -/
abbrev State.EndedNormally (s : State) : Prop := s.run = .halted

/-- The run state a step leads to: `raise F` sets it to `Faulted(F)` (R181). A refused step leads
to none. -/
def runStateAfter : Host.Outcome State Fault Refusal → Option RunState
  | .next s => some s.run
  | .fault f => some (.faulted f)
  | .refused _ => none

/-- An input sequence supplies the word `v` next and then `rest`: its first element and the others,
be they listed or the words of an infinite sequence (R19). -/
abbrev InputSequence.Supplies (i : InputSequence) (v : Word) (rest : InputSequence) : Prop :=
  i = .word v rest ∨
    ∃ stream position, i = .endless stream position ∧ v = Config.inputWord stream position ∧
      rest = .endless stream (position + 1)

/-- Every memory read the second operand makes is at a valid address: the read at TA unless M = 0,
and for M = 2 also the read at the address held there (R31, R54). -/
abbrev State.OperandReadable (s : State) (op : Operand) : Prop :=
  (op.mode ≠ .immediate → s.ValidAddress (s.indexedAddress op)) ∧
    (op.mode = .indirect → s.ValidAddress (s.word (s.indexedAddress op).toNat))

/-- `V` when the second operand can be read: the number TA, the word at TA, or the word at the
address held there (R52, R54). -/
def State.operandWord (s : State) (op : Operand) : Word :=
  match op.mode with
  | .immediate => s.indexedAddress op
  | .direct => s.word (s.indexedAddress op).toNat
  | .indirect => s.word (s.word (s.indexedAddress op).toNat).toNat

/-- The 38 assigned opcode values (R55, R56). -/
abbrev assignedOpcode (n : Nat) : Prop :=
  n ≤ 4 ∨ (17 ≤ n ∧ n ≤ 28) ∨ n = 31 ∨ (32 ≤ n ∧ n ≤ 44) ∨ (49 ≤ n ∧ n ≤ 54) ∨ n = 112

/-- The instructions that may overwrite `pc`: the jumps, CALL and EXIT (spec/10_state.md R15). -/
def transfersControl : Instr → Bool
  | .jump _ _ | .jneg _ _ | .jzer _ _ | .jpos _ _ | .jnneg _ _ | .jnzer _ _ | .jnpos _ _ => true
  | .jles _ _ | .jequ _ _ | .jgre _ _ | .jnles _ _ | .jnequ _ _ | .jngre _ _ => true
  | .call _ _ | .exit _ _ => true
  | .nop _ _ | .store _ _ | .load _ _ | .inp _ _ | .out _ _ | .comp _ _ => false
  | .add _ _ | .sub _ _ | .mul _ _ | .div _ _ | .mod _ _ => false
  | .and _ _ | .or _ _ | .xor _ _ | .not _ _ | .shl _ _ | .shr _ _ | .shra _ _ => false
  | .push _ _ | .pop _ _ | .pushr _ _ | .popr _ _ | .svc _ _ => false

/-- The registers an instruction writes: the column "writes" of spec/10_state.md R13. -/
def registersWritten : Instr → List Reg
  | .load rj _ | .inp rj _ => [rj]
  | .add rj _ | .sub rj _ | .mul rj _ | .div rj _ | .mod rj _ => [rj]
  | .and rj _ | .or rj _ | .xor rj _ | .not rj _ => [rj]
  | .shl rj _ | .shr rj _ | .shra rj _ => [rj]
  | .push rj _ => [rj]
  | .pop rj op => [op.ri, rj]
  | .pushr rj _ => [rj]
  | .popr rj _ => [6, 5, 4, 3, 2, 1, 0, rj]
  | .call rj _ => [rj, 7]
  | .exit rj _ => [rj, 7]
  | .svc rj _ => [rj]
  | .nop _ _ | .store _ _ | .out _ _ | .comp _ _ | .jump _ _ => []
  | .jneg _ _ | .jzer _ _ | .jpos _ _ | .jnneg _ _ | .jnzer _ _ | .jnpos _ _ => []
  | .jles _ _ | .jequ _ _ | .jgre _ _ | .jnles _ _ | .jnequ _ _ | .jngre _ _ => []

/-- The addresses the service `V` of a supervisor call stores results to: the addresses its
parameters hold (R155 to R157). -/
def State.serviceResults (s : State) (top : Word) : Option Service → List Word
  | some .read => [s.word top.toNat]
  | some .time | some .date =>
    [s.word (top - 2).toNat, s.word (top - 1).toNat, s.word top.toNat]
  | _ => []

/-- The addresses an instruction stores to, in order: the writes of spec/20_memory.md R37. -/
def State.storedAddresses (s : State) : Instr → List Word
  | .store _ op => [s.operandWord op]
  | .push rj _ => [s.reg rj + 1]
  | .pushr rj _ =>
    [s.reg rj + 1, s.reg rj + 2, s.reg rj + 3, s.reg rj + 4, s.reg rj + 5, s.reg rj + 6,
      s.reg rj + 7]
  | .call rj _ => [s.reg rj + 1, s.reg rj + 2]
  | .svc rj op =>
    (s.reg rj + 1) :: (s.reg rj + 2) ::
      s.serviceResults (s.reg rj) (serviceOf s.params (s.operandWord op))
  | .nop _ _ | .load _ _ | .inp _ _ | .out _ _ | .comp _ _ | .jump _ _ => []
  | .add _ _ | .sub _ _ | .mul _ _ | .div _ _ | .mod _ _ => []
  | .and _ _ | .or _ _ | .xor _ _ | .not _ _ | .shl _ _ | .shr _ _ | .shra _ _ => []
  | .jneg _ _ | .jzer _ _ | .jpos _ _ | .jnneg _ _ | .jnzer _ _ | .jnpos _ _ => []
  | .jles _ _ | .jequ _ _ | .jgre _ _ | .jnles _ _ | .jnequ _ _ | .jngre _ _ => []
  | .pop _ _ | .popr _ _ | .exit _ _ => []

/-- One outcome after another: the second runs from the next state of the first, and a stop of the
first is the stop of both. -/
def andThen (o : Host.Outcome State Fault Refusal) (f : State → Host.Outcome State Fault Refusal) :
    Host.Outcome State Fault Refusal :=
  match o with
  | .next s => f s
  | .fault r => .fault r
  | .refused r => .refused r

end Sys2Proof.Machine
end

