-- ==== Sys2Proof/Certificates/Slice0/Obligations.lean ====
section
/-! DEFINITION. The statements about this machine for the provers. Each names the rule of spec/ it
formalises; where it rests on a choice of the model, its docstring says so and names the log entry. -/

open Sys2Proof Sys2Proof.Machine

/-! ### Encoding and decoding (spec/30_encoding.md) -/

/-- Decoding the word of a well-formed instruction gives the instruction back: no bit of the format
of R50 is dropped. -/
def Obligations.DecodeEncode : Prop :=
  ∀ i : Instr, i.WellFormed → decode (encode i) = .ok i

/-- A word that decodes to an instruction is the word of that instruction, and the instruction is
well formed: every bit of a legal word has a meaning (R50, R57). -/
def Obligations.EncodeDecode : Prop :=
  ∀ (w : Word) (i : Instr), decode w = .ok i → i.WellFormed ∧ encode i = w

/-- IllegalInstruction is raised in exactly the two cases of R55, with the instruction word. -/
def Obligations.IllegalInstructionExactly : Prop :=
  ∀ s : State, s.run = .running → s.ValidAddress s.pc → ∀ x : Word,
    step s = .fault (.illegalInstruction x) ↔
      x = s.word s.pc.toNat ∧
        (¬assignedOpcode (x.toNat / 2 ^ 24) ∨ x.toNat / 2 ^ 19 % 4 = 3)

/-- A few words of the worked encodings (30_encoding.md section 8) decode to what they stand for. -/
def Obligations.DecodeSampleWords : Prop :=
  decode 0x02320064 = .ok (.load 1 ⟨.indirect, 2, 100⟩) ∧
    decode 0x0220FFFF = .ok (.load 1 ⟨.immediate, 0, -1⟩) ∧
    decode 0x01280064 = .ok (.store 1 ⟨.direct, 0, 100⟩) ∧
    decode 0x1F2FFFFE = .ok (.comp 1 ⟨.direct, 7, -2⟩) ∧
    decode 0x20000007 = .ok (.jump 0 ⟨.immediate, 0, 7⟩) ∧
    decode 0x34C10000 = .ok (.pop 6 ⟨.immediate, 1, 0⟩) ∧
    decode 0x70C0000B = .ok (.svc 6 ⟨.immediate, 0, 11⟩) ∧
    decode 0x00000000 = .ok (.nop 0 ⟨.immediate, 0, 0⟩)

/-! ### The step (spec/30_encoding.md R53, spec/10_state.md R15, R20) -/

/-- A step of a running machine whose word at `pc` decodes runs the decoded instruction, with `pc`
already at the following word and nothing else changed. -/
def Obligations.StepRunsDecoded : Prop :=
  ∀ (s : State) (i : Instr), s.run = .running → s.ValidAddress s.pc →
    decode (s.word s.pc.toNat) = .ok i →
      step s = exec i (s.setPc (s.pc + 1))

/-- A fetch outside memory faults before anything else (R15, R32, R53). -/
def Obligations.FetchOutsideMemoryFaults : Prop :=
  ∀ s : State, s.run = .running → ¬s.ValidAddress s.pc →
    step s = .fault (.addressOutOfBounds s.pc)

/-- A machine that is not running takes no step (R20). -/
def Obligations.NoStepAfterTheEnd : Prop :=
  ∀ s t : State, s.run ≠ .running → step s ≠ .next t

/-- A word stored by one instruction is what the very next step fetches (20_memory.md R39). -/
def Obligations.FetchSeesTheStore : Prop :=
  ∀ (s : State) (rj : Reg) (op : Operand), s.run = .running → s.ValidAddress s.pc →
    decode (s.word s.pc.toNat) = .ok (.store rj op) →
    (s.setPc (s.pc + 1)).OperandReadable op →
    (s.setPc (s.pc + 1)).operandWord op = s.pc + 1 →
    s.ValidAddress (s.pc + 1) →
      ∃ t, step s = .next t ∧ t.run = .running ∧ t.fetch = .ok (s.reg rj)

/-- No instruction is refused: each has its meaning in every state. -/
def Obligations.NoInstructionIsRefused : Prop :=
  ∀ (i : Instr) (s : State) (r : Refusal), exec i s ≠ .refused r

/-! ### The second operand (R54) -/

/-- The second operand: TA wraps, R0 counts as zero, and V comes with zero, one or two reads, each
of which faults outside memory. -/
def Obligations.OperandEvaluation : Prop :=
  ∀ (s : State) (ri : Reg) (addr : Int) (ta : Word),
    ta = wrap32 (addr + (if ri = 0 then 0 else (s.reg ri).toInt)) →
      s.operandValue ⟨.immediate, ri, addr⟩ = .ok ta ∧
      (s.ValidAddress ta → s.operandValue ⟨.direct, ri, addr⟩ = .ok (s.word ta.toNat)) ∧
      (¬s.ValidAddress ta →
        s.operandValue ⟨.direct, ri, addr⟩ = .error (.addressOutOfBounds ta) ∧
        s.operandValue ⟨.indirect, ri, addr⟩ = .error (.addressOutOfBounds ta)) ∧
      (s.ValidAddress ta → s.ValidAddress (s.word ta.toNat) →
        s.operandValue ⟨.indirect, ri, addr⟩ = .ok (s.word (s.word ta.toNat).toNat)) ∧
      (s.ValidAddress ta → ¬s.ValidAddress (s.word ta.toNat) →
        s.operandValue ⟨.indirect, ri, addr⟩ = .error (.addressOutOfBounds (s.word ta.toNat)))

/-- Every instruction evaluates its second operand, used or not, before its operation: an operand
that cannot be read is the instruction's fault (R54, R58, R110, R185). -/
def Obligations.OperandFaultComesFirst : Prop :=
  ∀ (i : Instr) (s : State), ¬s.OperandReadable i.operand →
    ∃ a : Word, ¬s.ValidAddress a ∧ exec i s = .fault (.addressOutOfBounds a) ∧
      (a = s.indexedAddress i.operand ∨
        (i.operand.mode = .indirect ∧ s.ValidAddress (s.indexedAddress i.operand) ∧
          a = s.word (s.indexedAddress i.operand).toNat))

/-- R0 is zero as an index register whatever it holds, and real everywhere else (10_state.md R12). -/
def Obligations.IndexRegisterZero : Prop :=
  ∀ (s : State) (v : Word) (m : Mode) (addr : Int),
    s.indexedAddress ⟨m, 0, addr⟩ = wrap32 addr ∧ (s.setReg 0 v).reg 0 = v ∧
      ∀ i : Reg, i ≠ 0 → s.indexedAddress ⟨m, i, addr⟩ = wrap32 (addr + (s.reg i).toInt)

/-! ### Data transfer and NOP (spec/40_data_transfer.md, spec/46_other.md) -/

/-- NOP does nothing (R165). -/
def Obligations.NopResult : Prop :=
  ∀ (s : State) (rj : Reg) (op : Operand), s.OperandReadable op →
    exec (.nop rj op) s = .next s

/-- LOAD writes V to Rj and nothing else (R81). -/
def Obligations.LoadResult : Prop :=
  ∀ (s : State) (rj : Reg) (op : Operand), s.OperandReadable op →
    exec (.load rj op) s = .next (s.setReg rj (s.operandWord op))

/-- STORE writes x[j] to the word at the address V, and faults outside memory (R82). -/
def Obligations.StoreResult : Prop :=
  ∀ (s : State) (rj : Reg) (op : Operand), s.OperandReadable op →
    (s.ValidAddress (s.operandWord op) →
      exec (.store rj op) s = .next (s.setWord (s.operandWord op).toNat (s.reg rj))) ∧
    (¬s.ValidAddress (s.operandWord op) →
      exec (.store rj op) s = .fault (.addressOutOfBounds (s.operandWord op)))

/-- IN moves the first element of the input device's sequence, finite or infinite, to Rj, so with an
infinite one it always completes; with no input left there is no next state; any other number is an
invalid device (R83, R19). -/
def Obligations.InResult : Prop :=
  ∀ (s : State) (rj : Reg) (op : Operand), s.params.Valid → s.OperandReadable op →
    (∀ v rest, s.operandWord op = s.params.devKbd → s.inputKbd.Supplies v rest →
      exec (.inp rj op) s = .next { s.setReg rj v with inputKbd := rest }) ∧
    (∀ v rest, s.operandWord op = s.params.devStdin → s.inputStdin.Supplies v rest →
      exec (.inp rj op) s = .next { s.setReg rj v with inputStdin := rest }) ∧
    (s.operandWord op = s.params.devKbd → s.inputKbd = .ended →
      ∀ t, exec (.inp rj op) s ≠ .next t) ∧
    (s.operandWord op = s.params.devStdin → s.inputStdin = .ended →
      ∀ t, exec (.inp rj op) s ≠ .next t) ∧
    (s.operandWord op ≠ s.params.devKbd → s.operandWord op ≠ s.params.devStdin →
      exec (.inp rj op) s = .fault (.invalidDevice (s.operandWord op)))

/-- THE MODEL'S CHOICE (log 8) among the two that R83 and R194 permit: exhausted input is the fault
InputExhausted, for IN and for the service READ. -/
def Obligations.ExhaustedInputFaults : Prop :=
  ∀ (s : State) (rj : Reg) (op : Operand), s.params.Valid → s.OperandReadable op →
    (s.operandWord op = s.params.devKbd → s.inputKbd = .ended →
      exec (.inp rj op) s = .fault (.inputExhausted s.params.devKbd)) ∧
    (s.operandWord op = s.params.devStdin → s.inputStdin = .ended →
      exec (.inp rj op) s = .fault (.inputExhausted s.params.devStdin)) ∧
    (s.operandWord op = s.params.svcRead → s.inputKbd = .ended → s.ValidAddress (s.reg rj) →
      s.ValidAddress (s.reg rj + 1) → s.ValidAddress (s.reg rj + 2) →
      exec (.svc rj op) s = .fault (.inputExhausted s.params.devKbd))

/-- OUT appends x[j] to the output device's sequence; any other number is an invalid device
(R84). -/
def Obligations.OutResult : Prop :=
  ∀ (s : State) (rj : Reg) (op : Operand), s.params.Valid → s.OperandReadable op →
    (s.operandWord op = s.params.devCrt →
      exec (.out rj op) s = .next { s with outputCrt := s.outputCrt ++ [s.reg rj] }) ∧
    (s.operandWord op = s.params.devStdout →
      exec (.out rj op) s = .next { s with outputStdout := s.outputStdout ++ [s.reg rj] }) ∧
    (s.operandWord op ≠ s.params.devCrt → s.operandWord op ≠ s.params.devStdout →
      exec (.out rj op) s = .fault (.invalidDevice (s.operandWord op)))

/-! ### Arithmetic and logic (spec/41_arithmetic_logic.md) -/

/-- ADD, SUB, MUL: the exact signed result goes to Rj when it fits a word; otherwise
IntegerOverflow (R91, R92, R93). -/
def Obligations.AddSubMulResult : Prop :=
  ∀ (s : State) (rj : Reg) (op : Operand) (x v : Int), s.OperandReadable op →
    x = (s.reg rj).toInt → v = (s.operandWord op).toInt →
      (fits32 (x + v) → exec (.add rj op) s = .next (s.setReg rj (wrap32 (x + v)))) ∧
      (¬fits32 (x + v) → exec (.add rj op) s = .fault .integerOverflow) ∧
      (fits32 (x - v) → exec (.sub rj op) s = .next (s.setReg rj (wrap32 (x - v)))) ∧
      (¬fits32 (x - v) → exec (.sub rj op) s = .fault .integerOverflow) ∧
      (fits32 (x * v) → exec (.mul rj op) s = .next (s.setReg rj (wrap32 (x * v)))) ∧
      (¬fits32 (x * v) → exec (.mul rj op) s = .fault .integerOverflow)

/-- DIV and MOD: a zero divisor faults; DIV faults with IntegerOverflow exactly for -2^31 by -1 and
otherwise writes the quotient rounded toward zero; MOD never overflows (R94, R95). -/
def Obligations.DivModResult : Prop :=
  ∀ (s : State) (rj : Reg) (op : Operand) (n d : Int), s.OperandReadable op →
    n = (s.reg rj).toInt → d = (s.operandWord op).toInt →
      (d = 0 → exec (.div rj op) s = .fault .divisionByZero ∧
        exec (.mod rj op) s = .fault .divisionByZero) ∧
      (d ≠ 0 → ¬(n = -2147483648 ∧ d = -1) →
        exec (.div rj op) s = .next (s.setReg rj (wrap32 (n.tdiv d)))) ∧
      (n = -2147483648 → d = -1 → exec (.div rj op) s = .fault .integerOverflow) ∧
      (d ≠ 0 → exec (.mod rj op) s = .next (s.setReg rj (wrap32 (n - n.tdiv d * d))))

/-- The law of division: n = q d + m with |m| < |d| and m of the sign of n, for the q that DIV
writes (when it fits) and the m that MOD writes (R106). -/
def Obligations.DivisionLaw : Prop :=
  ∀ (s : State) (rj : Reg) (op : Operand) (n d : Int), s.OperandReadable op →
    n = (s.reg rj).toInt → d = (s.operandWord op).toInt → d ≠ 0 →
      ∃ q m : Int, n = q * d + m ∧ |m| < |d| ∧ (0 < m → 0 < n) ∧ (m < 0 → n < 0) ∧
        (∃ t, exec (.mod rj op) s = .next t ∧ (t.reg rj).toInt = m) ∧
        (fits32 q → ∃ t, exec (.div rj op) s = .next t ∧ (t.reg rj).toInt = q) ∧
        (¬fits32 q → q = 2147483648 ∧ exec (.div rj op) s = .fault .integerOverflow)

/-- AND, OR, XOR, NOT act on each of the 32 bits and write Rj alone (R96 to R99). -/
def Obligations.LogicBits : Prop :=
  ∀ (s : State) (rj : Reg) (op : Operand), s.OperandReadable op →
    (∃ r : Word, exec (.and rj op) s = .next (s.setReg rj r) ∧ ∀ k, k < 32 →
      r.getLsbD k = ((s.reg rj).getLsbD k && (s.operandWord op).getLsbD k)) ∧
    (∃ r : Word, exec (.or rj op) s = .next (s.setReg rj r) ∧ ∀ k, k < 32 →
      r.getLsbD k = ((s.reg rj).getLsbD k || (s.operandWord op).getLsbD k)) ∧
    (∃ r : Word, exec (.xor rj op) s = .next (s.setReg rj r) ∧ ∀ k, k < 32 →
      r.getLsbD k = ((s.reg rj).getLsbD k ^^ (s.operandWord op).getLsbD k)) ∧
    (∃ r : Word, exec (.not rj op) s = .next (s.setReg rj r) ∧ ∀ k, k < 32 →
      r.getLsbD k = !(s.reg rj).getLsbD k)

/-- The shifts by n = s(V) from 0 to 31 write to Rj the words the pseudocode gives: u(x) 2^n,
floor(u(x) / 2^n), floor(s(x) / 2^n); any other amount faults (R100 to R103). -/
def Obligations.ShiftResult : Prop :=
  ∀ (s : State) (rj : Reg) (op : Operand), s.OperandReadable op →
    (∀ n : Nat, (s.operandWord op).toInt = n → n ≤ 31 →
      exec (.shl rj op) s = .next (s.setReg rj (wrap32 ((s.reg rj).toNat * 2 ^ n))) ∧
      exec (.shr rj op) s = .next (s.setReg rj (wrap32 ((s.reg rj).toNat / 2 ^ n))) ∧
      ∃ q : Int, q * 2 ^ n ≤ (s.reg rj).toInt ∧ (s.reg rj).toInt < (q + 1) * 2 ^ n ∧
        exec (.shra rj op) s = .next (s.setReg rj (wrap32 q))) ∧
    (∀ n : Int, (s.operandWord op).toInt = n → n < 0 ∨ 31 < n →
      exec (.shl rj op) s = .fault (.shiftAmountOutOfRange n) ∧
      exec (.shr rj op) s = .fault (.shiftAmountOutOfRange n) ∧
      exec (.shra rj op) s = .fault (.shiftAmountOutOfRange n))

/-- The shifts bit by bit: SHL and SHR fill with 0-bits, SHRA with copies of the leftmost bit
(R100 to R102). -/
def Obligations.ShiftBits : Prop :=
  ∀ (s : State) (rj : Reg) (op : Operand) (n : Nat), s.OperandReadable op →
    (s.operandWord op).toInt = n → n ≤ 31 →
      (∃ r : Word, exec (.shl rj op) s = .next (s.setReg rj r) ∧ ∀ k, k < 32 →
        r.getLsbD k = (decide (n ≤ k) && (s.reg rj).getLsbD (k - n))) ∧
      (∃ r : Word, exec (.shr rj op) s = .next (s.setReg rj r) ∧ ∀ k, k < 32 →
        r.getLsbD k = (decide (k + n < 32) && (s.reg rj).getLsbD (k + n))) ∧
      (∃ r : Word, exec (.shra rj op) s = .next (s.setReg rj r) ∧ ∀ k, k < 32 →
        r.getLsbD k = (s.reg rj).getLsbD (min (k + n) 31))

/-- COMP writes the three flags by the signed comparison, exactly one of them 1, and nothing else;
it never overflows (R104). -/
def Obligations.CompResult : Prop :=
  ∀ (s : State) (rj : Reg) (op : Operand), s.OperandReadable op →
    ∃ sr : StatusRegister, exec (.comp rj op) s = .next { s with sr := sr } ∧
      (sr.l = true ↔ (s.reg rj).toInt < (s.operandWord op).toInt) ∧
      (sr.e = true ↔ (s.reg rj).toInt = (s.operandWord op).toInt) ∧
      (sr.g = true ↔ (s.reg rj).toInt > (s.operandWord op).toInt) ∧
      (sr.l.toNat + sr.e.toNat + sr.g.toNat = 1)

/-! ### Branching (spec/42_branching.md) -/

/-- JUMP and the six jumps on x[j]: `pc` becomes V exactly when the signed condition holds, and
nothing else changes (R111 to R117). -/
def Obligations.RegisterJumps : Prop :=
  ∀ (s : State) (rj : Reg) (op : Operand) (x : Int), s.OperandReadable op →
    x = (s.reg rj).toInt →
      exec (.jump rj op) s = .next (s.setPc (s.operandWord op)) ∧
      exec (.jneg rj op) s = .next (if x < 0 then s.setPc (s.operandWord op) else s) ∧
      exec (.jzer rj op) s = .next (if x = 0 then s.setPc (s.operandWord op) else s) ∧
      exec (.jpos rj op) s = .next (if x > 0 then s.setPc (s.operandWord op) else s) ∧
      exec (.jnneg rj op) s = .next (if x ≥ 0 then s.setPc (s.operandWord op) else s) ∧
      exec (.jnzer rj op) s = .next (if x ≠ 0 then s.setPc (s.operandWord op) else s) ∧
      exec (.jnpos rj op) s = .next (if x ≤ 0 then s.setPc (s.operandWord op) else s)

/-- The six jumps on SR: `pc` becomes V exactly when one of the named bits is set; Rj does not
matter and nothing else changes (R118 to R123). -/
def Obligations.FlagJumps : Prop :=
  ∀ (s : State) (rj : Reg) (op : Operand), s.OperandReadable op →
    exec (.jles rj op) s = .next (if s.sr.l then s.setPc (s.operandWord op) else s) ∧
    exec (.jequ rj op) s = .next (if s.sr.e then s.setPc (s.operandWord op) else s) ∧
    exec (.jgre rj op) s = .next (if s.sr.g then s.setPc (s.operandWord op) else s) ∧
    exec (.jnles rj op) s = .next (if s.sr.e ∨ s.sr.g then s.setPc (s.operandWord op) else s) ∧
    exec (.jnequ rj op) s = .next (if s.sr.l ∨ s.sr.g then s.setPc (s.operandWord op) else s) ∧
    exec (.jngre rj op) s = .next (if s.sr.l ∨ s.sr.e then s.setPc (s.operandWord op) else s)

/-- With no flag set, as before the first COMP, none of the six jumps on SR is taken; after any
COMP each "not" jump is taken exactly when its counterpart is not (R124). -/
def Obligations.NegatedJumpsAfterComp : Prop :=
  ∀ (s t : State) (rj rk : Reg) (op op' : Operand),
    (s.sr = ⟨false, false, false⟩ → s.OperandReadable op →
      exec (.jles rj op) s = .next s ∧ exec (.jequ rj op) s = .next s ∧
      exec (.jgre rj op) s = .next s ∧ exec (.jnles rj op) s = .next s ∧
      exec (.jnequ rj op) s = .next s ∧ exec (.jngre rj op) s = .next s) ∧
    (exec (.comp rk op') s = .next t → t.OperandReadable op →
      exec (.jnles rj op) t = .next (if t.sr.l then t else t.setPc (t.operandWord op)) ∧
      exec (.jnequ rj op) t = .next (if t.sr.e then t else t.setPc (t.operandWord op)) ∧
      exec (.jngre rj op) t = .next (if t.sr.g then t else t.setPc (t.operandWord op)))

/-! ### Stack (spec/43_stack.md) -/

/-- PUSH: Rj grows by one and its new top cell receives V, evaluated before; a new top outside
memory faults (R131). -/
def Obligations.PushResult : Prop :=
  ∀ (s : State) (rj : Reg) (op : Operand), s.OperandReadable op →
    (s.ValidAddress (s.reg rj + 1) →
      exec (.push rj op) s =
        .next ((s.setReg rj (s.reg rj + 1)).setWord (s.reg rj + 1).toNat (s.operandWord op))) ∧
    (¬s.ValidAddress (s.reg rj + 1) →
      exec (.push rj op) s = .fault (.addressOutOfBounds (s.reg rj + 1)))

/-- POP: the top cell goes to the real register Ri, R0 included, then Rj drops by one; with Ri = Rj
the popped word is what drops; a top outside memory faults (R132). -/
def Obligations.PopResult : Prop :=
  ∀ (s : State) (rj : Reg) (op : Operand), s.OperandReadable op →
    (s.ValidAddress (s.reg rj) → op.ri ≠ rj →
      exec (.pop rj op) s =
        .next ((s.setReg op.ri (s.word (s.reg rj).toNat)).setReg rj (s.reg rj - 1))) ∧
    (s.ValidAddress (s.reg rj) → op.ri = rj →
      exec (.pop rj op) s = .next (s.setReg rj (s.word (s.reg rj).toNat - 1))) ∧
    (¬s.ValidAddress (s.reg rj) →
      exec (.pop rj op) s = .fault (.addressOutOfBounds (s.reg rj)))

/-- PUSHR: the seven cells above the top receive R0 to R6 in rising order, the cell of the stack
pointer its own address; Rj ends seven higher; nothing else changes; the first cell outside memory
is the fault (R133). -/
def Obligations.PushrResult : Prop :=
  ∀ (s : State) (rj : Reg) (op : Operand) (x : Word), s.OperandReadable op → x = s.reg rj →
    ((∀ k : Nat, k < 7 → s.ValidAddress (x + BitVec.ofNat 32 (k + 1))) →
      ∃ m : Memory, exec (.pushr rj op) s = .next { s.setReg rj (x + 7) with mem := m } ∧
        (∀ k : Reg, k.val < 7 →
          Memory.word m (x + BitVec.ofNat 32 (k.val + 1)).toNat =
            if k = rj then x + BitVec.ofNat 32 (k.val + 1) else s.reg k) ∧
        ∀ a : Nat, (∀ k : Nat, k < 7 → a ≠ (x + BitVec.ofNat 32 (k + 1)).toNat) →
          Memory.word m a = s.word a) ∧
    (∀ k : Nat, k < 7 → (∀ l : Nat, l < k → s.ValidAddress (x + BitVec.ofNat 32 (l + 1))) →
      ¬s.ValidAddress (x + BitVec.ofNat 32 (k + 1)) →
      exec (.pushr rj op) s = .fault (.addressOutOfBounds (x + BitVec.ofNat 32 (k + 1))))

/-- POPR is POP into R6, R5, R4, R3, R2, R1 and R0 one after another, faults included, also where
the stack pointer itself is popped (R134). -/
def Obligations.PoprIsSevenPops : Prop :=
  ∀ (s : State) (rj : Reg) (op : Operand), s.OperandReadable op →
    exec (.popr rj op) s =
      andThen (exec (.pop rj ⟨.immediate, 6, 0⟩) s) fun s =>
      andThen (exec (.pop rj ⟨.immediate, 5, 0⟩) s) fun s =>
      andThen (exec (.pop rj ⟨.immediate, 4, 0⟩) s) fun s =>
      andThen (exec (.pop rj ⟨.immediate, 3, 0⟩) s) fun s =>
      andThen (exec (.pop rj ⟨.immediate, 2, 0⟩) s) fun s =>
      andThen (exec (.pop rj ⟨.immediate, 1, 0⟩) s) fun s =>
      exec (.pop rj ⟨.immediate, 0, 0⟩) s

/-- POPR on a stack whose cell for the stack pointer holds that cell's own address, or with the
stack pointer R7: R6 down to R0 come from the seven top cells, Rj ends seven lower, and nothing
else changes (R134). -/
def Obligations.PoprResult : Prop :=
  ∀ (s : State) (rj : Reg) (op : Operand) (x : Word), s.OperandReadable op → x = s.reg rj →
    (∀ k : Nat, k < 7 → s.ValidAddress (x - BitVec.ofNat 32 k)) →
    (rj = 7 ∨ s.word (x - BitVec.ofNat 32 (6 - rj.val)).toNat = x - BitVec.ofNat 32 (6 - rj.val)) →
      ∃ rs : Vector Word 8, exec (.popr rj op) s = .next { s with regs := rs } ∧
        rs[rj.val] = x - 7 ∧
        (∀ k : Reg, k ≠ rj → k.val < 7 →
          rs[k.val] = s.word (x - BitVec.ofNat 32 (6 - k.val)).toNat) ∧
        ∀ k : Reg, k ≠ rj → k = 7 → rs[k.val] = s.reg k

/-- POPR undoes PUSHR with the same Rj exactly: every register is as before the PUSHR, and the rest
of the state is as after it (R133, R134). -/
def Obligations.PoprUndoesPushr : Prop :=
  ∀ (s t : State) (rj : Reg) (op op' : Operand), exec (.pushr rj op) s = .next t →
    t.OperandReadable op' → exec (.popr rj op') t = .next { t with regs := s.regs }

/-! ### Subroutines (spec/44_subroutine.md) -/

/-- CALL pushes the return address and the caller's FP, goes to V and makes FP the new top; the
first cell outside memory is the fault (R141; with Rj = R7 the cell of the FP holds its own address,
by the pseudocode: log 12). -/
def Obligations.CallResult : Prop :=
  ∀ (s : State) (rj : Reg) (op : Operand) (x : Word), s.OperandReadable op → x = s.reg rj →
    (s.ValidAddress (x + 1) → s.ValidAddress (x + 2) →
      exec (.call rj op) s =
        .next ((((((s.setReg rj (x + 2)).setReg 7 (x + 2)).setWord (x + 1).toNat s.pc).setWord
          (x + 2).toNat (if rj = 7 then x + 2 else s.reg 7))).setPc (s.operandWord op))) ∧
    (¬s.ValidAddress (x + 1) → exec (.call rj op) s = .fault (.addressOutOfBounds (x + 1))) ∧
    (s.ValidAddress (x + 1) → ¬s.ValidAddress (x + 2) →
      exec (.call rj op) s = .fault (.addressOutOfBounds (x + 2)))

/-- EXIT pops FP, then the pc, and drops V cells; with Rj = R7 the FP popped is the stack pointer
from there on; the first cell outside memory is the fault (R142). -/
def Obligations.ExitResult : Prop :=
  ∀ (s : State) (rj : Reg) (op : Operand) (x fp sp : Word), s.OperandReadable op → x = s.reg rj →
    fp = s.word x.toNat → sp = (if rj = 7 then fp - 1 else x - 1) →
    (s.ValidAddress x → s.ValidAddress sp →
      exec (.exit rj op) s =
        .next (((s.setReg 7 fp).setReg rj (sp - 1 - s.operandWord op)).setPc (s.word sp.toNat))) ∧
    (¬s.ValidAddress x → exec (.exit rj op) s = .fault (.addressOutOfBounds x)) ∧
    (s.ValidAddress x → ¬s.ValidAddress sp →
      exec (.exit rj op) s = .fault (.addressOutOfBounds sp))

/-- A subroutine that leaves the two cells of its CALL and its stack pointer as the CALL left them
returns with EXIT to the word after the CALL, with the caller's FP restored and its parameters
dropped (R143). -/
def Obligations.ExitReturnsFromCall : Prop :=
  ∀ (s t u : State) (rj : Reg) (op op' : Operand), rj ≠ 7 → exec (.call rj op) s = .next t →
    u.params = t.params → u.reg rj = t.reg rj →
    u.word (s.reg rj + 1).toNat = t.word (s.reg rj + 1).toNat →
    u.word (s.reg rj + 2).toNat = t.word (s.reg rj + 2).toNat →
    u.OperandReadable op' →
      exec (.exit rj op') u =
        .next (((u.setReg 7 (s.reg 7)).setReg rj (s.reg rj - u.operandWord op')).setPc s.pc)

/-! ### Supervisor calls (spec/45_system_calls.md) -/

/-- An unknown service number faults and does nothing else (R159). -/
def Obligations.InvalidServiceFaults : Prop :=
  ∀ (s : State) (rj : Reg) (op : Operand), s.OperandReadable op →
    s.operandWord op ∉ [s.params.svcHalt, s.params.svcRead, s.params.svcWrite, s.params.svcTime,
      s.params.svcDate] →
      exec (.svc rj op) s = .fault (.invalidService (s.operandWord op))

/-- Every service needs the two words above the top of the stack to exist (R153). -/
def Obligations.ScratchFaults : Prop :=
  ∀ (s : State) (rj : Reg) (op : Operand), s.OperandReadable op →
    s.operandWord op ∈ [s.params.svcHalt, s.params.svcRead, s.params.svcWrite, s.params.svcTime,
      s.params.svcDate] →
      (¬s.ValidAddress (s.reg rj + 1) →
        exec (.svc rj op) s = .fault (.addressOutOfBounds (s.reg rj + 1))) ∧
      (s.ValidAddress (s.reg rj + 1) → ¬s.ValidAddress (s.reg rj + 2) →
        exec (.svc rj op) s = .fault (.addressOutOfBounds (s.reg rj + 2)))

/-- HALT ends the run; registers, flags, `pc`, input and output stay, and so does all of memory but
the two scratch words (R153, R154). -/
def Obligations.SvcHaltResult : Prop :=
  ∀ (s : State) (rj : Reg) (op : Operand) (x : Word), s.params.Valid → s.OperandReadable op →
    s.operandWord op = s.params.svcHalt → x = s.reg rj → s.ValidAddress (x + 1) →
    s.ValidAddress (x + 2) →
      ∃ m d, exec (.svc rj op) s = .next { s with run := .halted, mem := m, draws := d } ∧
        ∀ a : Nat, a ≠ (x + 1).toNat → a ≠ (x + 2).toNat →
          Memory.word m a = s.word a

/-- READ stores the next integer of the keyboard at the address on top of the stack and removes the
parameter; a stack top or an address outside memory faults, and without input there is no next
state (R155). -/
def Obligations.SvcReadResult : Prop :=
  ∀ (s : State) (rj : Reg) (op : Operand) (x addr : Word), s.params.Valid →
    s.OperandReadable op → s.operandWord op = s.params.svcRead → x = s.reg rj →
    s.ValidAddress (x + 1) → s.ValidAddress (x + 2) → addr = s.word x.toNat →
      (∀ v rest, s.ValidAddress x → s.inputKbd.Supplies v rest → s.ValidAddress addr →
        ∃ m d, exec (.svc rj op) s =
            .next { s.setReg rj (x - 1) with mem := m, draws := d, inputKbd := rest } ∧
          Memory.word m addr.toNat = v ∧
          ∀ a : Nat, a ≠ addr.toNat → a ≠ (x + 1).toNat → a ≠ (x + 2).toNat →
            Memory.word m a = s.word a) ∧
      (¬s.ValidAddress x → exec (.svc rj op) s = .fault (.addressOutOfBounds x)) ∧
      (s.ValidAddress x → s.inputKbd ≠ .ended → ¬s.ValidAddress addr →
        exec (.svc rj op) s = .fault (.addressOutOfBounds addr)) ∧
      (s.inputKbd = .ended → ∀ t, exec (.svc rj op) s ≠ .next t)

/-- WRITE appends the word on top of the stack to the screen's output and removes the parameter; a
stack top outside memory faults (R158). -/
def Obligations.SvcWriteResult : Prop :=
  ∀ (s : State) (rj : Reg) (op : Operand) (x : Word), s.params.Valid → s.OperandReadable op →
    s.operandWord op = s.params.svcWrite → x = s.reg rj → s.ValidAddress (x + 1) →
    s.ValidAddress (x + 2) →
      (s.ValidAddress x →
        ∃ m d, exec (.svc rj op) s =
            .next { s.setReg rj (x - 1) with
              mem := m, draws := d, outputCrt := s.outputCrt ++ [s.word x.toNat] } ∧
          ∀ a : Nat, a ≠ (x + 1).toNat → a ≠ (x + 2).toNat →
            Memory.word m a = s.word a) ∧
      (¬s.ValidAddress x → exec (.svc rj op) s = .fault (.addressOutOfBounds x))

/-- TIME and DATE store three answers of the clock at the three addresses on the stack, the first
listed deepest, a later one winning where two addresses are equal, and remove the three parameters
(R156, R157). The answers are free values (log 9): the statement holds whatever they are, and says
only that they are three draws in order. -/
def Obligations.SvcClockResult : Prop :=
  ∀ (s : State) (rj : Reg) (op : Operand) (x a1 a2 a3 : Word), s.params.Valid →
    s.OperandReadable op →
    s.operandWord op = s.params.svcTime ∨ s.operandWord op = s.params.svcDate →
    x = s.reg rj → s.ValidAddress (x + 1) → s.ValidAddress (x + 2) → s.ValidAddress x →
    s.ValidAddress (x - 1) → s.ValidAddress (x - 2) → a3 = s.word x.toNat →
    a2 = s.word (x - 1).toNat → a1 = s.word (x - 2).toNat → s.ValidAddress a1 →
    s.ValidAddress a2 → s.ValidAddress a3 →
      ∃ m d n, exec (.svc rj op) s = .next { s.setReg rj (x - 3) with mem := m, draws := d } ∧
        Memory.word m a3.toNat = Config.freeWord (n + 2) ∧
        (a2 ≠ a3 → Memory.word m a2.toNat = Config.freeWord (n + 1)) ∧
        (a1 ≠ a2 → a1 ≠ a3 → Memory.word m a1.toNat = Config.freeWord n) ∧
        ∀ a : Nat, (∀ w ∈ [a1, a2, a3, x + 1, x + 2], a ≠ w.toNat) →
          Memory.word m a = s.word a

/-- TIME and DATE fault at the first of their six addresses that is outside memory: the three
parameters from the top downward, then the three results in the order written (R156, R157, R185). -/
def Obligations.SvcClockFaults : Prop :=
  ∀ (s : State) (rj : Reg) (op : Operand) (x : Word) (as : List Word), s.params.Valid →
    s.OperandReadable op →
    s.operandWord op = s.params.svcTime ∨ s.operandWord op = s.params.svcDate →
    x = s.reg rj → s.ValidAddress (x + 1) → s.ValidAddress (x + 2) →
    as = [x, x - 1, x - 2, s.word (x - 2).toNat, s.word (x - 1).toNat, s.word x.toNat] →
      ∀ (before after : List Word) (a : Word), as = before ++ a :: after →
        (∀ b ∈ before, s.ValidAddress b) → ¬s.ValidAddress a →
          exec (.svc rj op) s = .fault (.addressOutOfBounds a)

/-! ### Frames: what every instruction leaves unchanged -/

/-- Every register outside the instruction's column "writes" of R13 is unchanged. -/
def Obligations.FrameRegisters : Prop :=
  ∀ (i : Instr) (s t : State), exec i s = .next t →
    ∀ k : Reg, k ∉ registersWritten i → t.reg k = s.reg k

/-- Every word of memory outside the addresses the instruction stores to (20_memory.md R37) is
unchanged; an instruction that stores nothing leaves all of memory unchanged. -/
def Obligations.FrameMemory : Prop :=
  ∀ (i : Instr) (s t : State), exec i s = .next t →
    ∀ a : Nat, (∀ w ∈ s.storedAddresses i, a ≠ w.toNat) → t.word a = s.word a

/-- No instruction but COMP writes a flag (10_state.md R16). -/
def Obligations.FrameFlags : Prop :=
  ∀ (i : Instr) (s t : State), exec i s = .next t → (∀ rj op, i ≠ .comp rj op) → t.sr = s.sr

/-- No instruction but a jump, CALL and EXIT moves `pc` from the following word (10_state.md R15). -/
def Obligations.FramePc : Prop :=
  ∀ (i : Instr) (s t : State), exec i s = .next t → transfersControl i = false → t.pc = s.pc

/-- Input is consumed by IN and SVC only, output written by OUT and SVC only, the run state and the
draws changed by SVC only, and the parameters of the run by nothing (10_state.md R19, R22). -/
def Obligations.FrameEnvironment : Prop :=
  ∀ (i : Instr) (s t : State), exec i s = .next t →
    ((∀ rj op, i ≠ .inp rj op) → (∀ rj op, i ≠ .svc rj op) →
      t.inputKbd = s.inputKbd ∧ t.inputStdin = s.inputStdin) ∧
    ((∀ rj op, i ≠ .out rj op) → (∀ rj op, i ≠ .svc rj op) →
      t.outputCrt = s.outputCrt ∧ t.outputStdout = s.outputStdout) ∧
    ((∀ rj op, i ≠ .svc rj op) → t.run = s.run ∧ t.draws = s.draws) ∧
    t.params = s.params

/-! ### The whole machine -/

/-- Every step keeps the invariant: legal parameters, memory in its canonical form and inside its
bounds, at most one flag set, and no faulted state (R3, R16, R31, R181). -/
def Obligations.StepKeepsInv : Prop :=
  ∀ s t : State, s.Inv → step s = .next t → t.Inv

/-- The reset state meets the invariant. The state is that of the model's named parameters
(log 3, log 5, log 7). -/
def Obligations.ResetInv : Prop := State.reset.Inv

/-- Every loaded state meets the invariant, for every choice of the parameters (R3, R200). -/
def Obligations.LoadInv : Prop :=
  ∀ (p : Params) (image : List Word) (fp : Word) (kbd stdin : InputSequence) (s : State), p.Valid →
    State.load p image fp kbd stdin = some s → s.Inv

/-- A step of a running machine halts it only by the service HALT (R20, R154). -/
def Obligations.HaltedOnlyByHalt : Prop :=
  ∀ s t : State, s.run = .running → step s = .next t → t.run ≠ .running →
    t.run = .halted ∧ ∃ rj op, decode (s.word s.pc.toNat) = .ok (.svc rj op) ∧
      (s.setPc (s.pc + 1)).operandWord op = s.params.svcHalt

/-! ### Loading and the symbolic language (spec/70_reset_and_hazards.md, spec/30_encoding.md,
spec/47_compiler_control.md) -/

/-- Load(IMAGE): the image in memory from address 0, `pc` 0, R0 to R5 and the flags 0, SP at the
last word of the image, FP as the environment gives it, running, outputs empty; an image that does
not fit is refused (R200). -/
def Obligations.LoadResultState : Prop :=
  ∀ (p : Params) (image : List Word) (fp : Word) (kbd stdin : InputSequence),
    (image.length ≤ p.memWords →
      ∃ s, State.load p image fp kbd stdin = some s ∧
        (∀ (a : Nat) (h : a < image.length), s.word a = image[a]) ∧
        (∀ k : Reg, k.val < 6 → s.reg k = 0) ∧ s.reg 6 = wrap32 ((image.length : Int) - 1) ∧
        s.reg 7 = fp ∧ s.pc = 0 ∧ s.sr = ⟨false, false, false⟩ ∧ s.run = .running ∧
        s.outputCrt = [] ∧ s.outputStdout = [] ∧ s.inputKbd = kbd ∧ s.inputStdin = stdin ∧
        s.params = p) ∧
    (p.memWords < image.length → State.load p image fp kbd stdin = none)

/-- The reset state is the load of the empty image, with the parameters the model names (log 3,
log 4, log 5, log 7). -/
def Obligations.ResetIsTheEmptyLoad : Prop :=
  State.load Params.default [] 0 .ended .ended = some State.reset

/-- The eight operand forms give the fields of R61, for every constant in range and every
register. -/
def Obligations.OperandFormFields : Prop :=
  ∀ (table : SymbolTable) (n : Int) (r : RegName), addrInRange n →
    valueOperand table (.direct (.number n)) = .ok ⟨.direct, 0, n⟩ ∧
    valueOperand table (.register r) = .ok ⟨.immediate, r.reg, 0⟩ ∧
    valueOperand table (.immediate (.number n)) = .ok ⟨.immediate, 0, n⟩ ∧
    valueOperand table (.indirect (.number n)) = .ok ⟨.indirect, 0, n⟩ ∧
    valueOperand table (.indirectRegister r) = .ok ⟨.direct, r.reg, 0⟩ ∧
    valueOperand table (.indexed (.number n) r) = .ok ⟨.direct, r.reg, n⟩ ∧
    valueOperand table (.indexedImmediate (.number n) r) = .ok ⟨.immediate, r.reg, n⟩ ∧
    valueOperand table (.indexedIndirect (.number n) r) = .ok ⟨.indirect, r.reg, n⟩

/-- For STORE, the jumps and CALL the address the hardware uses is the address written: `ADDR`,
`ADDR(Ri)` and `@Ri` name it, `@ADDR` and `@ADDR(Ri)` name the word that holds it; a constant or a
bare register is rejected (R62). -/
def Obligations.AddressFormMeaning : Prop :=
  ∀ (m : Mnemonic) (table : SymbolTable) (n : Int) (r : RegName) (s : State), addrInRange n →
    (∃ op, addressOperand m table (.direct (.number n)) = .ok op ∧
      s.operandValue op = .ok (wrap32 n)) ∧
    (∃ op, addressOperand m table (.indexed (.number n) r) = .ok op ∧
      s.operandValue op = .ok (wrap32 (n + (s.index r.reg).toInt))) ∧
    (∃ op, addressOperand m table (.indirectRegister r) = .ok op ∧
      s.operandValue op = .ok (s.index r.reg)) ∧
    (∃ op, addressOperand m table (.indirect (.number n)) = .ok op ∧
      s.operandValue op = s.memRead (wrap32 n)) ∧
    (∃ op, addressOperand m table (.indexedIndirect (.number n) r) = .ok op ∧
      s.operandValue op = s.memRead (wrap32 (n + (s.index r.reg).toInt))) ∧
    addressOperand m table (.immediate (.number n)) = .error (.notAnAddress m) ∧
    addressOperand m table (.indexedImmediate (.number n) r) = .error (.notAnAddress m) ∧
    addressOperand m table (.register r) = .error (.notAnAddress m)

/-- Whatever the assembler makes of an instruction line is well formed, so its one word decodes to
it (R66, R68). -/
def Obligations.AssembledIsWellFormed : Prop :=
  ∀ (table : SymbolTable) (m : Mnemonic) (rj : Option RegName) (operand : Option OperandForm)
    (i : Instr), assembleInstruction table m rj operand = .ok i →
      i.WellFormed ∧ decode (encode i) = .ok i

/-- The image: as many code words as instruction lines, every one of them an instruction, then the
data words of DC and DS (R175). -/
def Obligations.ImageLayout : Prop :=
  ∀ (p : Params) (lines : List Line) (image : Image), assemble p lines = .ok image →
    image.code.length = codeWords lines ∧ image.data.length = dataWords lines ∧
      ∀ w ∈ image.code, ∃ i, decode w = .ok i

/-- A label in front of an instruction is the address of that instruction's word in the image, and a
DC label the address of the word that holds its value (R172, R175). -/
def Obligations.LabelsNameTheirWords : Prop :=
  ∀ (p : Params) (before after : List Line) (image : Image) (l : Label),
    (∀ m rj operand,
      assemble p (before ++ .instruction (some l) m rj operand :: after) = .ok image →
        ∃ i, symbolValue (symbolTable p (before ++ .instruction (some l) m rj operand :: after))
            (labelKey l) = some (codeWords before : Int) ∧
          assembleInstruction (symbolTable p (before ++ .instruction (some l) m rj operand :: after))
            m rj operand = .ok i ∧
          image.words[codeWords before]? = some (encode i)) ∧
    (∀ value, assemble p (before ++ .dc l value :: after) = .ok image →
      ∃ a : Nat, symbolValue (symbolTable p (before ++ .dc l value :: after)) (labelKey l) =
          some (a : Int) ∧
        image.words[a]? = some (wrap32 value))
end

