-- ==== Sys2Proof/Laws/State.lean ====
section
/-! SUPPORT. One lemma per field of State per update, so that no proof unfolds a record update. -/

namespace Sys2Proof.Machine

variable (s : State)

/-! ### setReg -/

@[simp] theorem setReg_regs (i : Reg) (v : Word) : (s.setReg i v).regs = s.regs.set i.val v := rfl
@[simp] theorem setReg_pc (i : Reg) (v : Word) : (s.setReg i v).pc = s.pc := rfl
@[simp] theorem setReg_sr (i : Reg) (v : Word) : (s.setReg i v).sr = s.sr := rfl
@[simp] theorem setReg_mem (i : Reg) (v : Word) : (s.setReg i v).mem = s.mem := rfl
@[simp] theorem setReg_run (i : Reg) (v : Word) : (s.setReg i v).run = s.run := rfl
@[simp] theorem setReg_inputKbd (i : Reg) (v : Word) : (s.setReg i v).inputKbd = s.inputKbd := rfl
@[simp] theorem setReg_inputStdin (i : Reg) (v : Word) : (s.setReg i v).inputStdin = s.inputStdin := rfl
@[simp] theorem setReg_outputCrt (i : Reg) (v : Word) : (s.setReg i v).outputCrt = s.outputCrt := rfl
@[simp] theorem setReg_outputStdout (i : Reg) (v : Word) : (s.setReg i v).outputStdout = s.outputStdout := rfl
@[simp] theorem setReg_params (i : Reg) (v : Word) : (s.setReg i v).params = s.params := rfl
@[simp] theorem setReg_draws (i : Reg) (v : Word) : (s.setReg i v).draws = s.draws := rfl
@[simp] theorem setReg_word (i : Reg) (v : Word) (c : Nat) : (s.setReg i v).word c = s.word c := rfl
@[simp] theorem setReg_validAddress (i : Reg) (v : Word) (c : Word) :
    (s.setReg i v).ValidAddress c = s.ValidAddress c := rfl
@[simp] theorem setReg_input (i : Reg) (v : Word) (d : InputDevice) : (s.setReg i v).input d = s.input d := by
  cases d <;> rfl
@[simp] theorem setReg_output (i : Reg) (v : Word) (d : OutputDevice) : (s.setReg i v).output d = s.output d := by
  cases d <;> rfl

/-! ### setPc -/

@[simp] theorem setPc_regs (t : Word) : (s.setPc t).regs = s.regs := rfl
@[simp] theorem setPc_pc (t : Word) : (s.setPc t).pc = t := rfl
@[simp] theorem setPc_sr (t : Word) : (s.setPc t).sr = s.sr := rfl
@[simp] theorem setPc_mem (t : Word) : (s.setPc t).mem = s.mem := rfl
@[simp] theorem setPc_run (t : Word) : (s.setPc t).run = s.run := rfl
@[simp] theorem setPc_inputKbd (t : Word) : (s.setPc t).inputKbd = s.inputKbd := rfl
@[simp] theorem setPc_inputStdin (t : Word) : (s.setPc t).inputStdin = s.inputStdin := rfl
@[simp] theorem setPc_outputCrt (t : Word) : (s.setPc t).outputCrt = s.outputCrt := rfl
@[simp] theorem setPc_outputStdout (t : Word) : (s.setPc t).outputStdout = s.outputStdout := rfl
@[simp] theorem setPc_params (t : Word) : (s.setPc t).params = s.params := rfl
@[simp] theorem setPc_draws (t : Word) : (s.setPc t).draws = s.draws := rfl
@[simp] theorem setPc_reg (t : Word) (k : Reg) : (s.setPc t).reg k = s.reg k := rfl
@[simp] theorem setPc_word (t : Word) (c : Nat) : (s.setPc t).word c = s.word c := rfl
@[simp] theorem setPc_validAddress (t : Word) (c : Word) :
    (s.setPc t).ValidAddress c = s.ValidAddress c := rfl
@[simp] theorem setPc_input (t : Word) (d : InputDevice) : (s.setPc t).input d = s.input d := by
  cases d <;> rfl
@[simp] theorem setPc_output (t : Word) (d : OutputDevice) : (s.setPc t).output d = s.output d := by
  cases d <;> rfl

/-! ### setSr -/

@[simp] theorem setSr_regs (sr : StatusRegister) : (s.setSr sr).regs = s.regs := rfl
@[simp] theorem setSr_pc (sr : StatusRegister) : (s.setSr sr).pc = s.pc := rfl
@[simp] theorem setSr_sr (sr : StatusRegister) : (s.setSr sr).sr = sr := rfl
@[simp] theorem setSr_mem (sr : StatusRegister) : (s.setSr sr).mem = s.mem := rfl
@[simp] theorem setSr_run (sr : StatusRegister) : (s.setSr sr).run = s.run := rfl
@[simp] theorem setSr_inputKbd (sr : StatusRegister) : (s.setSr sr).inputKbd = s.inputKbd := rfl
@[simp] theorem setSr_inputStdin (sr : StatusRegister) : (s.setSr sr).inputStdin = s.inputStdin := rfl
@[simp] theorem setSr_outputCrt (sr : StatusRegister) : (s.setSr sr).outputCrt = s.outputCrt := rfl
@[simp] theorem setSr_outputStdout (sr : StatusRegister) : (s.setSr sr).outputStdout = s.outputStdout := rfl
@[simp] theorem setSr_params (sr : StatusRegister) : (s.setSr sr).params = s.params := rfl
@[simp] theorem setSr_draws (sr : StatusRegister) : (s.setSr sr).draws = s.draws := rfl
@[simp] theorem setSr_reg (sr : StatusRegister) (k : Reg) : (s.setSr sr).reg k = s.reg k := rfl
@[simp] theorem setSr_word (sr : StatusRegister) (c : Nat) : (s.setSr sr).word c = s.word c := rfl
@[simp] theorem setSr_validAddress (sr : StatusRegister) (c : Word) :
    (s.setSr sr).ValidAddress c = s.ValidAddress c := rfl
@[simp] theorem setSr_input (sr : StatusRegister) (d : InputDevice) : (s.setSr sr).input d = s.input d := by
  cases d <;> rfl
@[simp] theorem setSr_output (sr : StatusRegister) (d : OutputDevice) : (s.setSr sr).output d = s.output d := by
  cases d <;> rfl

/-! ### setRun -/

@[simp] theorem setRun_regs (r : RunState) : (s.setRun r).regs = s.regs := rfl
@[simp] theorem setRun_pc (r : RunState) : (s.setRun r).pc = s.pc := rfl
@[simp] theorem setRun_sr (r : RunState) : (s.setRun r).sr = s.sr := rfl
@[simp] theorem setRun_mem (r : RunState) : (s.setRun r).mem = s.mem := rfl
@[simp] theorem setRun_run (r : RunState) : (s.setRun r).run = r := rfl
@[simp] theorem setRun_inputKbd (r : RunState) : (s.setRun r).inputKbd = s.inputKbd := rfl
@[simp] theorem setRun_inputStdin (r : RunState) : (s.setRun r).inputStdin = s.inputStdin := rfl
@[simp] theorem setRun_outputCrt (r : RunState) : (s.setRun r).outputCrt = s.outputCrt := rfl
@[simp] theorem setRun_outputStdout (r : RunState) : (s.setRun r).outputStdout = s.outputStdout := rfl
@[simp] theorem setRun_params (r : RunState) : (s.setRun r).params = s.params := rfl
@[simp] theorem setRun_draws (r : RunState) : (s.setRun r).draws = s.draws := rfl
@[simp] theorem setRun_reg (r : RunState) (k : Reg) : (s.setRun r).reg k = s.reg k := rfl
@[simp] theorem setRun_word (r : RunState) (c : Nat) : (s.setRun r).word c = s.word c := rfl
@[simp] theorem setRun_validAddress (r : RunState) (c : Word) :
    (s.setRun r).ValidAddress c = s.ValidAddress c := rfl
@[simp] theorem setRun_input (r : RunState) (d : InputDevice) : (s.setRun r).input d = s.input d := by
  cases d <;> rfl
@[simp] theorem setRun_output (r : RunState) (d : OutputDevice) : (s.setRun r).output d = s.output d := by
  cases d <;> rfl

/-! ### setWord -/

@[simp] theorem setWord_regs (a : Nat) (v : Word) : (s.setWord a v).regs = s.regs := rfl
@[simp] theorem setWord_pc (a : Nat) (v : Word) : (s.setWord a v).pc = s.pc := rfl
@[simp] theorem setWord_sr (a : Nat) (v : Word) : (s.setWord a v).sr = s.sr := rfl
@[simp] theorem setWord_mem (a : Nat) (v : Word) : (s.setWord a v).mem = Memory.write s.mem a v := rfl
@[simp] theorem setWord_run (a : Nat) (v : Word) : (s.setWord a v).run = s.run := rfl
@[simp] theorem setWord_inputKbd (a : Nat) (v : Word) : (s.setWord a v).inputKbd = s.inputKbd := rfl
@[simp] theorem setWord_inputStdin (a : Nat) (v : Word) : (s.setWord a v).inputStdin = s.inputStdin := rfl
@[simp] theorem setWord_outputCrt (a : Nat) (v : Word) : (s.setWord a v).outputCrt = s.outputCrt := rfl
@[simp] theorem setWord_outputStdout (a : Nat) (v : Word) : (s.setWord a v).outputStdout = s.outputStdout := rfl
@[simp] theorem setWord_params (a : Nat) (v : Word) : (s.setWord a v).params = s.params := rfl
@[simp] theorem setWord_draws (a : Nat) (v : Word) : (s.setWord a v).draws = s.draws := rfl
@[simp] theorem setWord_reg (a : Nat) (v : Word) (k : Reg) : (s.setWord a v).reg k = s.reg k := rfl
@[simp] theorem setWord_validAddress (a : Nat) (v : Word) (c : Word) :
    (s.setWord a v).ValidAddress c = s.ValidAddress c := rfl
@[simp] theorem setWord_input (a : Nat) (v : Word) (d : InputDevice) : (s.setWord a v).input d = s.input d := by
  cases d <;> rfl
@[simp] theorem setWord_output (a : Nat) (v : Word) (d : OutputDevice) : (s.setWord a v).output d = s.output d := by
  cases d <;> rfl

/-! ### spendDraws -/

@[simp] theorem spendDraws_regs (n : Nat) : (s.spendDraws n).regs = s.regs := rfl
@[simp] theorem spendDraws_pc (n : Nat) : (s.spendDraws n).pc = s.pc := rfl
@[simp] theorem spendDraws_sr (n : Nat) : (s.spendDraws n).sr = s.sr := rfl
@[simp] theorem spendDraws_mem (n : Nat) : (s.spendDraws n).mem = s.mem := rfl
@[simp] theorem spendDraws_run (n : Nat) : (s.spendDraws n).run = s.run := rfl
@[simp] theorem spendDraws_inputKbd (n : Nat) : (s.spendDraws n).inputKbd = s.inputKbd := rfl
@[simp] theorem spendDraws_inputStdin (n : Nat) : (s.spendDraws n).inputStdin = s.inputStdin := rfl
@[simp] theorem spendDraws_outputCrt (n : Nat) : (s.spendDraws n).outputCrt = s.outputCrt := rfl
@[simp] theorem spendDraws_outputStdout (n : Nat) : (s.spendDraws n).outputStdout = s.outputStdout := rfl
@[simp] theorem spendDraws_params (n : Nat) : (s.spendDraws n).params = s.params := rfl
@[simp] theorem spendDraws_draws (n : Nat) : (s.spendDraws n).draws = s.draws + n := rfl
@[simp] theorem spendDraws_reg (n : Nat) (k : Reg) : (s.spendDraws n).reg k = s.reg k := rfl
@[simp] theorem spendDraws_word (n : Nat) (c : Nat) : (s.spendDraws n).word c = s.word c := rfl
@[simp] theorem spendDraws_validAddress (n : Nat) (c : Word) :
    (s.spendDraws n).ValidAddress c = s.ValidAddress c := rfl
@[simp] theorem spendDraws_input (n : Nat) (d : InputDevice) : (s.spendDraws n).input d = s.input d := by
  cases d <;> rfl
@[simp] theorem spendDraws_output (n : Nat) (d : OutputDevice) : (s.spendDraws n).output d = s.output d := by
  cases d <;> rfl

/-! ### setInput -/

@[simp] theorem setInput_regs (d : InputDevice) (ws : InputSequence) : (s.setInput d ws).regs = s.regs := by cases d <;> rfl
@[simp] theorem setInput_pc (d : InputDevice) (ws : InputSequence) : (s.setInput d ws).pc = s.pc := by cases d <;> rfl
@[simp] theorem setInput_sr (d : InputDevice) (ws : InputSequence) : (s.setInput d ws).sr = s.sr := by cases d <;> rfl
@[simp] theorem setInput_mem (d : InputDevice) (ws : InputSequence) : (s.setInput d ws).mem = s.mem := by cases d <;> rfl
@[simp] theorem setInput_run (d : InputDevice) (ws : InputSequence) : (s.setInput d ws).run = s.run := by cases d <;> rfl
@[simp] theorem setInput_outputCrt (d : InputDevice) (ws : InputSequence) : (s.setInput d ws).outputCrt = s.outputCrt := by cases d <;> rfl
@[simp] theorem setInput_outputStdout (d : InputDevice) (ws : InputSequence) : (s.setInput d ws).outputStdout = s.outputStdout := by cases d <;> rfl
@[simp] theorem setInput_params (d : InputDevice) (ws : InputSequence) : (s.setInput d ws).params = s.params := by cases d <;> rfl
@[simp] theorem setInput_draws (d : InputDevice) (ws : InputSequence) : (s.setInput d ws).draws = s.draws := by cases d <;> rfl
@[simp] theorem setInput_reg (d : InputDevice) (ws : InputSequence) (k : Reg) : (s.setInput d ws).reg k = s.reg k := by
  cases d <;> rfl
@[simp] theorem setInput_word (d : InputDevice) (ws : InputSequence) (c : Nat) : (s.setInput d ws).word c = s.word c := by
  cases d <;> rfl
@[simp] theorem setInput_validAddress (d : InputDevice) (ws : InputSequence) (c : Word) :
    (s.setInput d ws).ValidAddress c = s.ValidAddress c := by cases d <;> rfl

/-! ### putOutput -/

@[simp] theorem putOutput_regs (d : OutputDevice) (v : Word) : (s.putOutput d v).regs = s.regs := by cases d <;> rfl
@[simp] theorem putOutput_pc (d : OutputDevice) (v : Word) : (s.putOutput d v).pc = s.pc := by cases d <;> rfl
@[simp] theorem putOutput_sr (d : OutputDevice) (v : Word) : (s.putOutput d v).sr = s.sr := by cases d <;> rfl
@[simp] theorem putOutput_mem (d : OutputDevice) (v : Word) : (s.putOutput d v).mem = s.mem := by cases d <;> rfl
@[simp] theorem putOutput_run (d : OutputDevice) (v : Word) : (s.putOutput d v).run = s.run := by cases d <;> rfl
@[simp] theorem putOutput_inputKbd (d : OutputDevice) (v : Word) : (s.putOutput d v).inputKbd = s.inputKbd := by cases d <;> rfl
@[simp] theorem putOutput_inputStdin (d : OutputDevice) (v : Word) : (s.putOutput d v).inputStdin = s.inputStdin := by cases d <;> rfl
@[simp] theorem putOutput_params (d : OutputDevice) (v : Word) : (s.putOutput d v).params = s.params := by cases d <;> rfl
@[simp] theorem putOutput_draws (d : OutputDevice) (v : Word) : (s.putOutput d v).draws = s.draws := by cases d <;> rfl
@[simp] theorem putOutput_reg (d : OutputDevice) (v : Word) (k : Reg) : (s.putOutput d v).reg k = s.reg k := by
  cases d <;> rfl
@[simp] theorem putOutput_word (d : OutputDevice) (v : Word) (c : Nat) : (s.putOutput d v).word c = s.word c := by
  cases d <;> rfl
@[simp] theorem putOutput_validAddress (d : OutputDevice) (v : Word) (c : Word) :
    (s.putOutput d v).ValidAddress c = s.ValidAddress c := by cases d <;> rfl

@[simp] theorem setInput_output (d : InputDevice) (ws : InputSequence) (e : OutputDevice) :
    (s.setInput d ws).output e = s.output e := by cases d <;> cases e <;> rfl
@[simp] theorem setInput_input_same (d : InputDevice) (ws : InputSequence) :
    (s.setInput d ws).input d = ws := by cases d <;> rfl
theorem setInput_input_other (d e : InputDevice) (ws : InputSequence) (h : e ≠ d) :
    (s.setInput d ws).input e = s.input e := by
  cases d <;> cases e <;> first | rfl | exact absurd rfl h
@[simp] theorem putOutput_input (d : OutputDevice) (v : Word) (e : InputDevice) :
    (s.putOutput d v).input e = s.input e := by cases d <;> cases e <;> rfl
@[simp] theorem putOutput_output_same (d : OutputDevice) (v : Word) :
    (s.putOutput d v).output d = s.output d ++ [v] := by cases d <;> rfl
theorem putOutput_output_other (d e : OutputDevice) (v : Word) (h : e ≠ d) :
    (s.putOutput d v).output e = s.output e := by
  cases d <;> cases e <;> first | rfl | exact absurd rfl h

/-! ### The derived updates, as the updates they are made of -/

theorem advancePc_def : s.advancePc = s.setPc (s.pc + 1) := rfl
theorem growStack_def (j : Reg) : s.growStack j = s.setReg j (s.reg j + 1) := rfl
theorem dropStack_def (j : Reg) (n : Word) : s.dropStack j n = s.setReg j (s.reg j - n) := rfl

/-! ### Registers -/

theorem reg_setReg (i k : Reg) (v : Word) :
    (s.setReg i v).reg k = if k = i then v else s.reg k := by
  simp only [State.setReg, State.reg, Vector.getElem_set, eq_comm (a := k), Fin.ext_iff]

@[simp] theorem reg_setReg_same (i : Reg) (v : Word) : (s.setReg i v).reg i = v := by
  simp [reg_setReg]

theorem reg_setReg_other (i k : Reg) (v : Word) (h : k ≠ i) :
    (s.setReg i v).reg k = s.reg k := by
  simp [reg_setReg, h]

/-- Of two writes to one register the later stands. -/
@[simp] theorem setReg_setReg_same (i : Reg) (v w : Word) :
    (s.setReg i v).setReg i w = s.setReg i w := by
  simp [State.setReg]

/-- Writes to two registers commute. -/
theorem setReg_comm (i k : Reg) (v w : Word) (h : i ≠ k) :
    (s.setReg i v).setReg k w = (s.setReg k w).setReg i v := by
  simp only [State.setReg]
  rw [Vector.set_comm]
  exact fun e => h (Fin.ext e)

/-- Writing a register what it holds changes nothing. -/
@[simp] theorem setReg_reg (i : Reg) : s.setReg i (s.reg i) = s := by
  simp [State.setReg, State.reg]

/-- A register write and a memory write commute. -/
theorem setReg_setWord (i : Reg) (v : Word) (a : Nat) (w : Word) :
    (s.setReg i v).setWord a w = (s.setWord a w).setReg i v := rfl

/-- A register write and a write of `pc` commute. -/
theorem setPc_setReg (t : Word) (i : Reg) (v : Word) :
    (s.setPc t).setReg i v = (s.setReg i v).setPc t := rfl

end Sys2Proof.Machine
end

