-- ==== Sys2Proof/Laws/Memory.lean ====
section
/-! SUPPORT. Memory: what a read after a write gives, and that every operation keeps the canonical
form. -/

namespace Sys2Proof.Machine

/-- A read after a write: the value written at that address, the old value at every other. -/
theorem lookup_write (m : Memory) (a b : Nat) (v : Word) :
    Memory.lookup (Memory.write m a v) b = if b = a then some v else Memory.lookup m b := by
  induction m with
  | nil => by_cases h : b = a <;> simp [Memory.write, Memory.lookup, h]
  | cons c m ih =>
    obtain ⟨c, w⟩ := c
    simp only [Memory.write]
    by_cases hlt : a < c
    · by_cases h : b = a <;> simp [Memory.lookup, hlt, h]
    · by_cases heq : a = c
      · subst heq
        by_cases h : b = a <;> simp [Memory.lookup, h]
      · simp only [hlt, heq, if_false, Memory.lookup, ih]
        by_cases h : b = a
        · subst h; simp [heq]
        · simp [h]

/-- The addresses a write lists: the old ones and the one written. -/
theorem mem_write (m : Memory) (a : Nat) (v : Word) (c : Cell) (h : c ∈ Memory.write m a v) :
    c = (a, v) ∨ c ∈ m := by
  induction m with
  | nil => simpa [Memory.write] using h
  | cons b m ih =>
    obtain ⟨b, w⟩ := b
    simp only [Memory.write] at h
    split at h
    · simpa using h
    · split at h
      · rcases List.mem_cons.mp h with h | h
        · exact .inl h
        · exact .inr (List.mem_cons_of_mem _ h)
      · rcases List.mem_cons.mp h with h | h
        · exact .inr (h ▸ List.mem_cons_self)
        · rcases ih h with h | h
          · exact .inl h
          · exact .inr (List.mem_cons_of_mem _ h)

/-- A write keeps the canonical form. -/
theorem write_wf (m : Memory) (a : Nat) (v : Word) (h : Memory.wf m) :
    Memory.wf (Memory.write m a v) := by
  induction m with
  | nil => simp [Memory.write, Memory.wf]
  | cons b m ih =>
    obtain ⟨b, w⟩ := b
    obtain ⟨hb, hm⟩ := List.pairwise_cons.mp h
    simp only [Memory.write]
    split
    · next hlt =>
      refine List.pairwise_cons.mpr ⟨fun c hc => ?_, h⟩
      rcases List.mem_cons.mp hc with rfl | hc
      · exact hlt
      · exact hlt.trans (hb c hc)
    · next hlt =>
      split
      · next heq =>
        subst heq
        exact List.pairwise_cons.mpr ⟨hb, hm⟩
      · next hne =>
        refine List.pairwise_cons.mpr ⟨fun c hc => ?_, ih hm⟩
        rcases mem_write m a v c hc with rfl | hc
        · exact lt_of_le_of_ne (not_lt.mp hlt) (Ne.symm hne)
        · exact hb c hc

/-- The memory of the reset state has the canonical form. -/
theorem reset_memory_wf : Memory.wf State.reset.mem := List.Pairwise.nil

/-- Storing a word keeps the canonical form. -/
theorem setWord_wf (s : State) (a : Nat) (v : Word) (h : Memory.wf s.mem) :
    Memory.wf (s.setWord a v).mem := write_wf s.mem a v h

/-- The words of a memory after one is written. -/
theorem word_write (m : Memory) (a b : Nat) (v : Word) :
    Memory.word (Memory.write m a v) b = if b = a then v else Memory.word m b := by
  simp only [Memory.word, lookup_write]
  split <;> rfl

/-- The words of memory after one is stored. -/
theorem word_setWord (s : State) (a b : Nat) (v : Word) :
    (s.setWord a v).word b = if b = a then v else s.word b := by
  simp only [State.word, Memory.word, setWord_mem, lookup_write]
  split <;> rfl

@[simp] theorem word_setWord_same (s : State) (a : Nat) (v : Word) :
    (s.setWord a v).word a = v := by simp [word_setWord]

theorem word_setWord_other (s : State) (a b : Nat) (v : Word) (h : b ≠ a) :
    (s.setWord a v).word b = s.word b := by simp [word_setWord, h]

/-- A valid address is a natural number below `MEM_WORDS`. -/
theorem validAddress_lt (s : State) (a : Word) (h : s.ValidAddress a) :
    a.toNat < s.params.memWords := by
  obtain ⟨h0, h1⟩ := h
  have := BitVec.toInt_eq_toNat_cond a
  have := a.isLt
  split at * <;> omega

end Sys2Proof.Machine
end

