-- ==== Sys2Proof/Laws/Ops.lean ====
section
/-! SUPPORT. For each shared operation, once, everything it can do. -/

namespace Sys2Proof.Machine

/-! ### Outcomes -/

@[simp] theorem complete_ok (s : State) : complete (.ok s) = .next s := rfl
@[simp] theorem complete_error (f : Fault) : complete (.error f) = .fault f := rfl

/-- An instruction answers a next state exactly where its pseudocode reaches its end. -/
theorem complete_eq_next (e : Except Fault State) (t : State) :
    complete e = .next t ↔ e = .ok t := by
  cases e <;> simp [complete, raise]

/-- An instruction answers a fault exactly where its pseudocode raises it. -/
theorem complete_eq_fault (e : Except Fault State) (f : Fault) :
    complete e = .fault f ↔ e = .error f := by
  cases e <;> simp [complete, raise]

/-- No instruction is refused. -/
theorem complete_ne_refused (e : Except Fault State) (r : Refusal) : complete e ≠ .refused r := by
  cases e <;> simp [complete, raise]

/-- A computation that can fault ends well exactly where both its parts do. -/
theorem bind_eq_ok {α β : Type} (x : Except Fault α) (f : α → Except Fault β) (b : β) :
    x >>= f = .ok b ↔ ∃ a, x = .ok a ∧ f a = .ok b := by
  cases x <;> simp [bind, Except.bind]

theorem bind_ok {α β : Type} (a : α) (f : α → Except Fault β) : (Except.ok a >>= f) = f a := rfl

theorem bind_error {α β : Type} (e : Fault) (f : α → Except Fault β) :
    (Except.error e >>= f) = .error e := rfl

/-! ### Memory -/

theorem memRead_valid (s : State) (a : Word) (h : s.ValidAddress a) :
    s.memRead a = .ok (s.word a.toNat) := if_pos h

theorem memRead_invalid (s : State) (a : Word) (h : ¬s.ValidAddress a) :
    s.memRead a = .error (.addressOutOfBounds a) := if_neg h

theorem memWrite_valid (s : State) (a v : Word) (h : s.ValidAddress a) :
    s.memWrite a v = .ok (s.setWord a.toNat v) := if_pos h

theorem memWrite_invalid (s : State) (a v : Word) (h : ¬s.ValidAddress a) :
    s.memWrite a v = .error (.addressOutOfBounds a) := if_neg h

/-- A read that answers was at a valid address and gives the word there. -/
theorem memRead_eq_ok (s : State) (a w : Word) :
    s.memRead a = .ok w ↔ s.ValidAddress a ∧ w = s.word a.toNat := by
  by_cases h : s.ValidAddress a
  · rw [memRead_valid s a h, Except.ok.injEq]
    exact ⟨fun e => ⟨h, e.symm⟩, fun e => e.2.symm⟩
  · rw [memRead_invalid s a h]; simp only [h, false_and, reduceCtorEq]

/-- A write that answers was at a valid address and changed that word alone. -/
theorem memWrite_eq_ok (s t : State) (a v : Word) :
    s.memWrite a v = .ok t ↔ s.ValidAddress a ∧ t = s.setWord a.toNat v := by
  by_cases h : s.ValidAddress a
  · rw [memWrite_valid s a v h, Except.ok.injEq]
    exact ⟨fun e => ⟨h, e.symm⟩, fun e => e.2.symm⟩
  · rw [memWrite_invalid s a v h]; simp only [h, false_and, reduceCtorEq]

/-! ### The stack -/

/-- A push that answers: the stack pointer has grown, the new top address is valid, and the value
pushed is that of the state whose stack has grown. -/
theorem pushFrom_eq_ok (s t : State) (j : Reg) (v : State → Word) :
    s.pushFrom j v = .ok t ↔
      s.ValidAddress (s.reg j + 1) ∧
        t = (s.growStack j).setWord (s.reg j + 1).toNat (v (s.growStack j)) := by
  simp [State.pushFrom, memWrite_eq_ok, growStack_def]

/-- A pop that answers: the top address was valid, and the register popped into is written before
the stack pointer drops. -/
theorem popInto_eq_ok (s t : State) (j k : Reg) :
    s.popInto j k = .ok t ↔
      s.ValidAddress (s.reg j) ∧
        t = (s.setReg k (s.word (s.reg j).toNat)).dropStack j 1 := by
  simp only [State.popInto, bind_eq_ok, memRead_eq_ok]
  constructor
  · rintro ⟨a, ⟨h, rfl⟩, h'⟩
    exact ⟨h, by simpa [pure, Except.pure, eq_comm] using h'⟩
  · rintro ⟨h, rfl⟩
    exact ⟨_, ⟨h, rfl⟩, rfl⟩

theorem pushFrom_valid (s : State) (j : Reg) (v : State → Word)
    (h : s.ValidAddress (s.reg j + 1)) :
    s.pushFrom j v =
      .ok ((s.growStack j).setWord (s.reg j + 1).toNat (v (s.growStack j))) :=
  (pushFrom_eq_ok s _ j v).mpr ⟨h, rfl⟩

theorem pushFrom_invalid (s : State) (j : Reg) (v : State → Word)
    (h : ¬s.ValidAddress (s.reg j + 1)) :
    s.pushFrom j v = .error (.addressOutOfBounds (s.reg j + 1)) := by
  rw [State.pushFrom, growStack_def, reg_setReg_same]
  exact memWrite_invalid _ _ _ h

theorem popInto_valid (s : State) (j k : Reg) (h : s.ValidAddress (s.reg j)) :
    s.popInto j k = .ok ((s.setReg k (s.word (s.reg j).toNat)).dropStack j 1) :=
  (popInto_eq_ok s _ j k).mpr ⟨h, rfl⟩

theorem popInto_invalid (s : State) (j k : Reg) (h : ¬s.ValidAddress (s.reg j)) :
    s.popInto j k = .error (.addressOutOfBounds (s.reg j)) := by
  rw [State.popInto, memRead_invalid _ _ h, bind_error]

/-! ### The environment -/

@[simp] theorem take_ended : InputSequence.ended.take = none := rfl
@[simp] theorem take_word (v : Word) (rest : InputSequence) :
    (InputSequence.word v rest).take = some (v, rest) := rfl
@[simp] theorem take_endless (k n : Nat) :
    (InputSequence.endless k n).take = some (Config.inputWord k n, .endless k (n + 1)) := rfl

/-- A sequence delivers exactly what it supplies. -/
theorem take_eq_some (i : InputSequence) (v : Word) (rest : InputSequence) :
    i.take = some (v, rest) ↔ i.Supplies v rest := by
  cases i <;> simp [InputSequence.Supplies, eq_comm]

/-- A sequence delivers nothing exactly when it has ended. -/
theorem take_eq_none (i : InputSequence) : i.take = none ↔ i = .ended := by
  cases i <;> simp

theorem takeInput_supplies (s : State) (d : InputDevice) (v : Word) (rest : InputSequence)
    (h : (s.input d).Supplies v rest) : s.takeInput d = .ok (v, s.setInput d rest) := by
  rw [State.takeInput, (take_eq_some _ _ _).mpr h]

theorem takeInput_ended (s : State) (d : InputDevice) (h : s.input d = .ended) :
    s.takeInput d = .error (.inputExhausted (inputNumber s.params d)) := by
  rw [State.takeInput, h, take_ended]

/-- With distinct service numbers each number names its service (R3, R151). -/
theorem serviceOf_numbers (p : Params) (hp : p.Valid) :
    serviceOf p p.svcHalt = some .halt ∧ serviceOf p p.svcRead = some .read ∧
      serviceOf p p.svcWrite = some .write ∧ serviceOf p p.svcTime = some .time ∧
      serviceOf p p.svcDate = some .date := by
  have := hp.2.2.2
  simp only [List.nodup_cons, List.mem_cons, List.not_mem_nil, or_false, not_or] at this
  obtain ⟨⟨a, b, c, d⟩, ⟨e, f, g⟩, ⟨i, j⟩, k, -⟩ := this
  simp [serviceOf, Ne.symm a, Ne.symm b, Ne.symm c, Ne.symm d, Ne.symm e, Ne.symm f, Ne.symm g,
    Ne.symm i, Ne.symm j, Ne.symm k]

/-- Input that answers: the first element of the sequence, which loses it. -/
theorem takeInput_eq_ok (s t : State) (d : InputDevice) (v : Word) :
    s.takeInput d = .ok (v, t) ↔ ∃ rest, (s.input d).Supplies v rest ∧ t = s.setInput d rest := by
  simp only [State.takeInput, ← take_eq_some]
  cases (s.input d).take <;> simp [Prod.ext_iff, eq_comm]

/-- The scratch words: both must be valid, and both receive drawn words. -/
theorem scratch_eq_ok (s t : State) (top : Word) :
    s.scratch top = .ok t ↔
      s.ValidAddress (top + 1) ∧ s.ValidAddress (top + 2) ∧
        t = ((s.setWord (top + 1).toNat (s.drawn 0)).setWord (top + 2).toNat
          (s.drawn 1)).spendDraws 2 := by
  simp only [State.scratch, bind_eq_ok, memWrite_eq_ok]
  constructor
  · rintro ⟨a, ⟨h, rfl⟩, b, ⟨h', rfl⟩, h''⟩
    exact ⟨h, h', by simpa [pure, Except.pure, eq_comm] using h''⟩
  · rintro ⟨h, h', rfl⟩
    exact ⟨_, ⟨h, rfl⟩, _, ⟨h', rfl⟩, rfl⟩

theorem scratch_valid (s : State) (top : Word) (h1 : s.ValidAddress (top + 1))
    (h2 : s.ValidAddress (top + 2)) :
    s.scratch top =
      .ok (((s.setWord (top + 1).toNat (s.drawn 0)).setWord (top + 2).toNat
        (s.drawn 1)).spendDraws 2) :=
  (scratch_eq_ok s _ top).mpr ⟨h1, h2, rfl⟩

/-! ### The second operand -/

/-- An instruction with an operand that answers: the operand was evaluated, then the operation. -/
theorem withOperand_eq_next (op : Operand) (s t : State) (f : Word → Except Fault State) :
    withOperand op s f = .next t ↔ ∃ v, s.operandValue op = .ok v ∧ f v = .ok t := by
  simp only [withOperand, complete_eq_next, bind_eq_ok]

/-- An operand that can be evaluated hands its value to the operation. -/
theorem withOperand_ok (op : Operand) (s : State) (f : Word → Except Fault State) (v : Word)
    (h : s.operandValue op = .ok v) : withOperand op s f = complete (f v) := by
  simp [withOperand, h, bind, Except.bind]

end Sys2Proof.Machine
end

