-- ==== Sys2Proof/Laws/Operand.lean ====
section
/-! SUPPORT. The second operand in the terms claims use: where it can be read, and what it is. -/

namespace Sys2Proof.Machine

/-- A readable operand has its value. -/
theorem operandValue_readable (s : State) (op : Operand) (h : s.OperandReadable op) :
    s.operandValue op = .ok (s.operandWord op) := by
  obtain ⟨h1, h2⟩ := h
  unfold State.operandValue State.operandWord
  cases hm : op.mode with
  | immediate => rfl
  | direct => exact memRead_valid s _ (h1 (by simp [hm]))
  | indirect =>
    simp only [memRead_valid s _ (h1 (by simp [hm])), bind, Except.bind]
    exact memRead_valid s _ (h2 hm)

/-- Only a readable operand has a value, and that value is its word. -/
theorem operandValue_eq_ok (s : State) (op : Operand) (v : Word) :
    s.operandValue op = .ok v ↔ s.OperandReadable op ∧ v = s.operandWord op := by
  constructor
  · intro h
    have hr : s.OperandReadable op := by
      unfold State.operandValue at h
      cases hm : op.mode <;> simp only [hm, bind_eq_ok, memRead_eq_ok] at h
      · exact ⟨fun c => absurd hm c, fun c => by simp [hm] at c⟩
      · exact ⟨fun _ => h.1, fun c => by simp [hm] at c⟩
      · obtain ⟨t, ⟨h1, rfl⟩, h2, -⟩ := h
        exact ⟨fun _ => h1, fun _ => h2⟩
    refine ⟨hr, ?_⟩
    rw [operandValue_readable s op hr] at h
    exact (Except.ok.inj h).symm
  · rintro ⟨h, rfl⟩
    exact operandValue_readable s op h

/-- With a readable operand an instruction is its operation on the operand's word. -/
theorem withOperand_readable (op : Operand) (s : State) (f : Word → Except Fault State)
    (h : s.OperandReadable op) : withOperand op s f = complete (f (s.operandWord op)) :=
  withOperand_ok op s f _ (operandValue_readable s op h)

/-- An instruction that answers a next state had a readable operand, and that state is what the
operation gives on the operand's word. -/
theorem withOperand_next (op : Operand) (s t : State) (f : Word → Except Fault State) :
    withOperand op s f = .next t ↔ s.OperandReadable op ∧ f (s.operandWord op) = .ok t := by
  rw [withOperand_eq_next]
  constructor
  · rintro ⟨v, hv, hf⟩
    obtain ⟨hr, rfl⟩ := (operandValue_eq_ok s op v).mp hv
    exact ⟨hr, hf⟩
  · rintro ⟨hr, hf⟩
    exact ⟨_, operandValue_readable s op hr, hf⟩

end Sys2Proof.Machine
end

