-- ==== Sys2Proof/Laws/Arithmetic.lean ====
section
/-! SUPPORT. For each shared operation of the arithmetic family, once, what it answers. -/

namespace Sys2Proof.Machine

theorem narrow_fits (r : Int) (h : fits32 r) : narrow r = .ok (wrap32 r) := if_pos h

theorem narrow_overflow (r : Int) (h : ¬fits32 r) : narrow r = .error .integerOverflow := if_neg h

theorem shiftBy_inRange (v : Word) (f : Nat → Int) (h : 0 ≤ v.toInt ∧ v.toInt ≤ 31) :
    shiftBy v f = .ok (wrap32 (f v.toInt.toNat)) := if_pos h

theorem shiftBy_outOfRange (v : Word) (f : Nat → Int) (h : ¬(0 ≤ v.toInt ∧ v.toInt ≤ 31)) :
    shiftBy v f = .error (.shiftAmountOutOfRange v.toInt) := if_neg h

/-- An operation with a result writes it to Rj and nothing else. -/
theorem operate_ok (f : Word → Word → Except Fault Word) (rj : Reg) (op : Operand) (s : State)
    (r : Word) (h : s.OperandReadable op) (hr : f (s.reg rj) (s.operandWord op) = .ok r) :
    operate f rj op s = .next (s.setReg rj r) := by
  rw [operate, withOperand_readable op s _ h, hr]
  rfl

/-- An operation that faults is the instruction's fault. -/
theorem operate_error (f : Word → Word → Except Fault Word) (rj : Reg) (op : Operand) (s : State)
    (e : Fault) (h : s.OperandReadable op)
    (hr : f (s.reg rj) (s.operandWord op) = .error e) : operate f rj op s = .fault e := by
  rw [operate, withOperand_readable op s _ h, hr]
  rfl

/-- An operation that answers a next state had a result, and wrote it to Rj. -/
theorem operate_next (f : Word → Word → Except Fault Word) (rj : Reg) (op : Operand)
    (s t : State) (h : operate f rj op s = .next t) :
    s.OperandReadable op ∧ ∃ r, f (s.reg rj) (s.operandWord op) = .ok r ∧ t = s.setReg rj r := by
  obtain ⟨hr, hf⟩ := (withOperand_next _ _ _ _).mp h
  obtain ⟨r, h1, h2⟩ := (bind_eq_ok _ _ _).mp hf
  exact ⟨hr, r, h1, (Except.ok.inj h2).symm⟩

/-- A word read as signed fits a word. -/
theorem toInt_fits (w : Word) : fits32 w.toInt := by
  have h1 := BitVec.toInt_lt (x := w)
  have h2 := BitVec.le_toInt w
  norm_num at h1 h2
  constructor <;> omega

end Sys2Proof.Machine
end

