-- ==== Sys2Proof/Laws/Fields.lean ====
section
/-! SUPPORT. The fields of an instruction word, and the word built from them, as arithmetic on plain
numerals (R50). -/

namespace Sys2Proof

/-- Bits of a word as a quotient and a remainder. -/
theorem extract_toNat (w : Word) (start len : Nat) :
    (w.extractLsb' start len).toNat = w.toNat / 2 ^ start % 2 ^ len := by
  rw [BitVec.extractLsb'_toNat, Nat.shiftRight_eq_div_pow]

theorem opcodeField_eq (w : Word) : opcodeField w = w.toNat / 16777216 % 256 :=
  extract_toNat w 24 8

theorem rjField_eq (w : Word) : (rjField w).val = w.toNat / 2097152 % 8 := extract_toNat w 21 3

theorem modeField_eq (w : Word) : modeField w = w.toNat / 524288 % 4 := extract_toNat w 19 2

theorem riField_eq (w : Word) : (riField w).val = w.toNat / 65536 % 8 := extract_toNat w 16 3

/-- The constant ADDR is the signed reading of the low 16 bits (R51). -/
theorem addrField_eq (w : Word) : addrField w = (BitVec.ofNat 16 (w.toNat % 65536)).toInt := by
  have h : w.extractLsb' 0 16 = BitVec.ofNat 16 (w.toNat % 65536) := by
    apply BitVec.eq_of_toNat_eq
    rw [extract_toNat, BitVec.toNat_ofNat]
    norm_num
  unfold addrField
  exact congrArg BitVec.toInt h

/-- The value of the field M is less than 4. -/
theorem Mode.code_lt (m : Mode) : m.code < 4 := by cases m <;> decide

/-- The pattern of a constant has 16 bits. -/
theorem addrPattern_lt (addr : Int) : addrPattern addr < 65536 := (BitVec.ofInt 16 addr).isLt

/-- An opcode is a byte. -/
theorem Instr.opcode_lt (i : Instr) : i.opcode < 256 := by cases i <;> simp [Instr.opcode]

/-- The number an instruction's word is: the fields side by side, with no carry between them. -/
theorem encode_toNat (i : Instr) :
    (encode i).toNat = i.opcode * 16777216 + i.rj.val * 2097152 + i.operand.mode.code * 524288 +
      i.operand.ri.val * 65536 + addrPattern i.operand.addr := by
  have h1 := i.opcode_lt
  have h2 := i.rj.isLt
  have h3 := i.operand.mode.code_lt
  have h4 := i.operand.ri.isLt
  have h5 := addrPattern_lt i.operand.addr
  unfold encode
  rw [BitVec.toNat_ofNat]
  norm_num
  omega

/-- The decoder answers an instruction exactly where the opcode selects an operation and the field M
a mode, and the instruction is that operation on the other fields. -/
theorem decode_eq_ok (w : Word) (i : Instr) :
    decode w = .ok i ↔
      ∃ build mode, operationOf (opcodeField w) = some build ∧ modeOf (modeField w) = some mode ∧
        i = build (rjField w) ⟨mode, riField w, addrField w⟩ := by
  unfold decode
  generalize operationOf (opcodeField w) = o
  generalize modeOf (modeField w) = m
  cases o <;> cases m <;> simp [eq_comm]

/-- The decoder rejects a word exactly where one of the two does not. -/
theorem decode_eq_error (w : Word) :
    (∃ e, decode w = .error e) ↔
      operationOf (opcodeField w) = none ∨ modeOf (modeField w) = none := by
  unfold decode
  generalize operationOf (opcodeField w) = o
  generalize modeOf (modeField w) = m
  cases o <;> cases m <;> simp

end Sys2Proof
end

