-- ==== Sys2Proof/Laws/PerInstr.lean ====
section
/-! SUPPORT. What is said of all instructions, one lemma per instruction. -/

namespace Sys2Proof

namespace Laws.EncodedOpcode

/-- Bits 31 to 24 of an instruction's word are its opcode (R50, R56). -/
def Statement (i : Instr) : Prop := opcodeField (encode i) = i.opcode

/-- The statement holds of every instruction: nothing carries into the top byte. -/
theorem of_any (i : Instr) : Statement i := by
  have h1 := i.opcode_lt
  have h2 := i.rj.isLt
  have h3 := i.operand.mode.code_lt
  have h4 := i.operand.ri.isLt
  have h5 := addrPattern_lt i.operand.addr
  unfold Statement
  rw [opcodeField_eq, encode_toNat]
  omega

theorem nop (rj : Reg) (op : Operand) : Statement (.nop rj op) := of_any _
theorem store (rj : Reg) (op : Operand) : Statement (.store rj op) := of_any _
theorem load (rj : Reg) (op : Operand) : Statement (.load rj op) := of_any _
theorem inp (rj : Reg) (op : Operand) : Statement (.inp rj op) := of_any _
theorem out (rj : Reg) (op : Operand) : Statement (.out rj op) := of_any _
theorem add (rj : Reg) (op : Operand) : Statement (.add rj op) := of_any _
theorem sub (rj : Reg) (op : Operand) : Statement (.sub rj op) := of_any _
theorem mul (rj : Reg) (op : Operand) : Statement (.mul rj op) := of_any _
theorem div (rj : Reg) (op : Operand) : Statement (.div rj op) := of_any _
theorem mod (rj : Reg) (op : Operand) : Statement (.mod rj op) := of_any _
theorem and (rj : Reg) (op : Operand) : Statement (.and rj op) := of_any _
theorem or (rj : Reg) (op : Operand) : Statement (.or rj op) := of_any _
theorem xor (rj : Reg) (op : Operand) : Statement (.xor rj op) := of_any _
theorem shl (rj : Reg) (op : Operand) : Statement (.shl rj op) := of_any _
theorem shr (rj : Reg) (op : Operand) : Statement (.shr rj op) := of_any _
theorem not (rj : Reg) (op : Operand) : Statement (.not rj op) := of_any _
theorem shra (rj : Reg) (op : Operand) : Statement (.shra rj op) := of_any _
theorem comp (rj : Reg) (op : Operand) : Statement (.comp rj op) := of_any _
theorem jump (rj : Reg) (op : Operand) : Statement (.jump rj op) := of_any _
theorem jneg (rj : Reg) (op : Operand) : Statement (.jneg rj op) := of_any _
theorem jzer (rj : Reg) (op : Operand) : Statement (.jzer rj op) := of_any _
theorem jpos (rj : Reg) (op : Operand) : Statement (.jpos rj op) := of_any _
theorem jnneg (rj : Reg) (op : Operand) : Statement (.jnneg rj op) := of_any _
theorem jnzer (rj : Reg) (op : Operand) : Statement (.jnzer rj op) := of_any _
theorem jnpos (rj : Reg) (op : Operand) : Statement (.jnpos rj op) := of_any _
theorem jles (rj : Reg) (op : Operand) : Statement (.jles rj op) := of_any _
theorem jequ (rj : Reg) (op : Operand) : Statement (.jequ rj op) := of_any _
theorem jgre (rj : Reg) (op : Operand) : Statement (.jgre rj op) := of_any _
theorem jnles (rj : Reg) (op : Operand) : Statement (.jnles rj op) := of_any _
theorem jnequ (rj : Reg) (op : Operand) : Statement (.jnequ rj op) := of_any _
theorem jngre (rj : Reg) (op : Operand) : Statement (.jngre rj op) := of_any _
theorem call (rj : Reg) (op : Operand) : Statement (.call rj op) := of_any _
theorem exit (rj : Reg) (op : Operand) : Statement (.exit rj op) := of_any _
theorem push (rj : Reg) (op : Operand) : Statement (.push rj op) := of_any _
theorem pop (rj : Reg) (op : Operand) : Statement (.pop rj op) := of_any _
theorem pushr (rj : Reg) (op : Operand) : Statement (.pushr rj op) := of_any _
theorem popr (rj : Reg) (op : Operand) : Statement (.popr rj op) := of_any _
theorem svc (rj : Reg) (op : Operand) : Statement (.svc rj op) := of_any _

end Laws.EncodedOpcode

end Sys2Proof
end

