-- ==== Sys2Proof/Tests/Slice0.lean ====
section
/-! SUPPORT. Small tests. Words and results come from spec/30_encoding.md section 8 and from the
vectors of spec/95_test_vectors.md; the theorems named `witness_…` show states and operands that
meet the hypotheses of the obligation they name, clause by clause. -/

namespace Sys2Proof.Machine

/-! ### Helpers -/

/-- A running machine of 64 words (the default start state of spec/95_test_vectors.md part 2). -/
def small (pc : Word) (regs : Vector Word 8) (mem : Memory) : State :=
  { State.reset with
    pc := pc, regs := regs, mem := mem, params := { Params.default with memWords := 64 } }

/-- R1 as given, every other register 0, `pc` 0, nothing in memory. -/
def withR1 (v : Word) : State := small 0 #v[0, v, 0, 0, 0, 0, 0, 0] []

/-- R6 as given, every other register 0, `pc` 8. -/
def withSp (v : Word) (mem : Memory) : State := small 8 #v[0, 0, 0, 0, 0, 0, v, 0] mem

/-- One step of a state whose word at `pc` is the given one. -/
def runWord (w : Word) (s : State) : Host.Outcome State Fault Refusal :=
  step (s.setWord s.pc.toNat w)

/-- A field of the next state, if there is one. -/
def nextOf {α : Type} (f : State → α) : Host.Outcome State Fault Refusal → Option α
  | .next s => some (f s)
  | _ => none

/-- The fault, if there is one. -/
def faultOf : Host.Outcome State Fault Refusal → Option Fault
  | .fault f => some f
  | _ => none

/-- What a register holds after a step. -/
def regAfter (i : Reg) (o : Host.Outcome State Fault Refusal) : Option Word := nextOf (·.reg i) o

/-- What a listed word of memory holds after a step. -/
def wordAfter (a : Nat) (o : Host.Outcome State Fault Refusal) : Option Word :=
  (nextOf (fun s => Memory.lookup s.mem a) o).join

/-- `pc` after a step. -/
def pcAfter (o : Host.Outcome State Fault Refusal) : Option Word := nextOf (·.pc) o

/-- `pc` after a jump word at address 3, for R1 = -1, 0, 1. -/
def registerJump (w : Word) : List (Option Word) :=
  [-1, 0, 1].map fun v => pcAfter (runWord w (small 3 #v[0, v, 0, 0, 0, 0, 0, 0] []))

/-- `pc` after a jump word at address 3, for L, E, G = 100, 010, 001, 000. -/
def flagJump (w : Word) : List (Option Word) :=
  [(true, false, false), (false, true, false), (false, false, true), (false, false, false)].map
    fun (l, e, g) => pcAfter (runWord w { small 3 #v[0, 0, 0, 0, 0, 0, 0, 0] [] with sr := ⟨l, e, g⟩ })

/-! ### Well-formedness: ill-formed terms are refused (R51, R66) -/

theorem test_wellFormed_upper : ¬(Instr.load 1 ⟨.immediate, 0, 32768⟩).WellFormed := by decide
theorem test_wellFormed_lower : ¬(Instr.load 1 ⟨.direct, 0, -32769⟩).WellFormed := by decide
theorem test_wellFormed_ends :
    (Instr.load 1 ⟨.immediate, 0, 32767⟩).WellFormed ∧
      (Instr.load 1 ⟨.immediate, 0, -32768⟩).WellFormed := by decide

/-! ### Decoding: one word written out for every operation -/

theorem test_decode_nop : decode 0x00E7FFFF = .ok (.nop 7 ⟨.immediate, 7, -1⟩) := by decide
theorem test_decode_store : decode 0x012A0002 = .ok (.store 1 ⟨.direct, 2, 2⟩) := by decide
theorem test_decode_load : decode 0x02320064 = .ok (.load 1 ⟨.indirect, 2, 100⟩) := by decide
theorem test_decode_in : decode 0x03480028 = .ok (.inp 2 ⟨.direct, 0, 40⟩) := by decide
theorem test_decode_out : decode 0x04200007 = .ok (.out 1 ⟨.immediate, 0, 7⟩) := by decide
theorem test_decode_add : decode 0x1120FFFB = .ok (.add 1 ⟨.immediate, 0, -5⟩) := by decide
theorem test_decode_sub : decode 0x12280028 = .ok (.sub 1 ⟨.direct, 0, 40⟩) := by decide
theorem test_decode_mul : decode 0x1340FFFD = .ok (.mul 2 ⟨.immediate, 0, -3⟩) := by decide
theorem test_decode_div : decode 0x14200002 = .ok (.div 1 ⟨.immediate, 0, 2⟩) := by decide
theorem test_decode_mod : decode 0x1520FFFE = .ok (.mod 1 ⟨.immediate, 0, -2⟩) := by decide
theorem test_decode_and : decode 0x1620000C = .ok (.and 1 ⟨.immediate, 0, 12⟩) := by decide
theorem test_decode_or : decode 0x17208000 = .ok (.or 1 ⟨.immediate, 0, -32768⟩) := by decide
theorem test_decode_xor : decode 0x18210000 = .ok (.xor 1 ⟨.immediate, 1, 0⟩) := by decide
theorem test_decode_shl : decode 0x19220000 = .ok (.shl 1 ⟨.immediate, 2, 0⟩) := by decide
theorem test_decode_shr : decode 0x1A20001F = .ok (.shr 1 ⟨.immediate, 0, 31⟩) := by decide
theorem test_decode_not : decode 0x1B2A0046 = .ok (.not 1 ⟨.direct, 2, 70⟩) := by decide
theorem test_decode_shra : decode 0x1C200003 = .ok (.shra 1 ⟨.immediate, 0, 3⟩) := by decide
theorem test_decode_comp : decode 0x1F2FFFFE = .ok (.comp 1 ⟨.direct, 7, -2⟩) := by decide
theorem test_decode_jump : decode 0x20A00007 = .ok (.jump 5 ⟨.immediate, 0, 7⟩) := by decide
theorem test_decode_jneg : decode 0x21200007 = .ok (.jneg 1 ⟨.immediate, 0, 7⟩) := by decide
theorem test_decode_jzer : decode 0x22280028 = .ok (.jzer 1 ⟨.direct, 0, 40⟩) := by decide
theorem test_decode_jpos : decode 0x23200007 = .ok (.jpos 1 ⟨.immediate, 0, 7⟩) := by decide
theorem test_decode_jnneg : decode 0x24200007 = .ok (.jnneg 1 ⟨.immediate, 0, 7⟩) := by decide
theorem test_decode_jnzer : decode 0x25000007 = .ok (.jnzer 0 ⟨.immediate, 0, 7⟩) := by decide
theorem test_decode_jnpos : decode 0x26200007 = .ok (.jnpos 1 ⟨.immediate, 0, 7⟩) := by decide
theorem test_decode_jles : decode 0x27600007 = .ok (.jles 3 ⟨.immediate, 0, 7⟩) := by decide
theorem test_decode_jequ : decode 0x28000007 = .ok (.jequ 0 ⟨.immediate, 0, 7⟩) := by decide
theorem test_decode_jgre : decode 0x29000007 = .ok (.jgre 0 ⟨.immediate, 0, 7⟩) := by decide
theorem test_decode_jnles : decode 0x2A00000C = .ok (.jnles 0 ⟨.immediate, 0, 12⟩) := by decide
theorem test_decode_jnequ : decode 0x2B000007 = .ok (.jnequ 0 ⟨.immediate, 0, 7⟩) := by decide
theorem test_decode_jngre : decode 0x2C000002 = .ok (.jngre 0 ⟨.immediate, 0, 2⟩) := by decide
theorem test_decode_call : decode 0x31CE0000 = .ok (.call 6 ⟨.direct, 6, 0⟩) := by decide
theorem test_decode_exit : decode 0x32C00002 = .ok (.exit 6 ⟨.immediate, 0, 2⟩) := by decide
theorem test_decode_push : decode 0x33C8000F = .ok (.push 6 ⟨.direct, 0, 15⟩) := by decide
theorem test_decode_pop : decode 0x34640000 = .ok (.pop 3 ⟨.immediate, 4, 0⟩) := by decide
theorem test_decode_pushr : decode 0x35400000 = .ok (.pushr 2 ⟨.immediate, 0, 0⟩) := by decide
theorem test_decode_popr : decode 0x36C00000 = .ok (.popr 6 ⟨.immediate, 0, 0⟩) := by decide
theorem test_decode_svc : decode 0x70C0000B = .ok (.svc 6 ⟨.immediate, 0, 11⟩) := by decide

/-- The ends of the unassigned opcode ranges, and M = 3 (R55). -/
theorem test_decode_refuses :
    ([0x05, 0x10, 0x1D, 0x1E, 0x2D, 0x30, 0x37, 0x6F, 0x71, 0xFF].map fun n : Nat =>
      (decode (BitVec.ofNat 32 (n * 16777216))).toOption) = List.replicate 10 none ∧
      decode 0x02380000 = .error .reservedMode ∧
      decode 0xFFFFFFFF = .error (.unknownOpcode 255) := by decide

theorem test_encode : encode (.comp 1 ⟨.direct, 7, -2⟩) = 0x1F2FFFFE := by decide

/-- The host's two doors: the table's numbering, and the word placed where the step fetches. -/
theorem test_withFetchWord :
    decodeTableWord 32 0x02200064 = some (.load 1 ⟨.immediate, 0, 100⟩) ∧
      regAfter 1 (step (State.reset.withFetchWord 32 0x02200064)) = some 100 := by decide

/-! ### One step of each instruction -/

theorem test_nop : pcAfter (runWord 0x00E7FFFF (small 4 #v[0, 0, 0, 0, 0, 0, 0, 5] [])) = some 5 := by
  decide
theorem test_nop_reads_operand :
    faultOf (runWord 0x00080046 (withR1 0)) = some (.addressOutOfBounds 70) := by decide
theorem test_store :
    wordAfter 50 (runWord 0x012A0002 (small 0 #v[0, 7, 38, 0, 0, 0, 0, 0] [(40, 50)])) = some 7 := by
  decide
theorem test_store_outside :
    faultOf (runWord 0x0120FFFF (withR1 7)) = some (.addressOutOfBounds (-1)) := by decide
theorem test_load_wraps :
    regAfter 1 (runWord 0x02220001 (small 0 #v[0, 0, 0x7FFFFFFF, 0, 0, 0, 0, 0] [])) =
      some 0x80000000 := by decide
theorem test_load_indirect :
    regAfter 1 (runWord 0x0232000A (small 0 #v[0, 0, 30, 0, 0, 0, 0, 0] [(40, 41), (41, -3)])) =
      some (-3) := by decide
theorem test_in :
    nextOf (fun s => (s.reg 2, s.inputKbd))
      (runWord 0x03480028 { small 0 #v[0, 0, 0, 0, 0, 0, 0, 0] [(40, 1)] with
        inputKbd := .prepend [9, 4] .ended }) =
      some (9, .word 4 .ended) := by decide
theorem test_in_invalid :
    faultOf (runWord 0x03200000 { withR1 0 with inputKbd := .word 1 .ended }) = some (.invalidDevice 0) := by
  decide
theorem test_out :
    nextOf (fun s => (s.outputCrt, s.outputStdout)) (runWord 0x04200000 (withR1 (-5))) =
      some ([-5], []) := by decide
theorem test_out_invalid :
    faultOf (runWord 0x04200001 (withR1 1)) = some (.invalidDevice 1) := by decide
theorem test_add : regAfter 1 (runWord 0x11210000 (withR1 21)) = some 42 := by decide
theorem test_add_overflow :
    faultOf (runWord 0x11200001 (withR1 0x7FFFFFFF)) = some .integerOverflow := by decide
theorem test_sub :
    regAfter 1 (runWord 0x12280028 (small 0 #v[0, -1, 0, 0, 0, 0, 0, 0] [(40, 0x80000000)])) =
      some 0x7FFFFFFF := by decide
theorem test_sub_overflow :
    faultOf (runWord 0x12280028 (small 0 #v[0, 0, 0, 0, 0, 0, 0, 0] [(40, 0x80000000)])) =
      some .integerOverflow := by decide
theorem test_mul : regAfter 1 (runWord 0x13208000 (withR1 65536)) = some 0x80000000 := by decide
theorem test_mul_overflow :
    faultOf (runWord 0x1320FFFF (withR1 0x80000000)) = some .integerOverflow := by decide
theorem test_div : regAfter 1 (runWord 0x14200002 (withR1 (-7))) = some (-3) := by decide
theorem test_div_overflow :
    faultOf (runWord 0x1420FFFF (withR1 0x80000000)) = some .integerOverflow := by decide
theorem test_mod : regAfter 1 (runWord 0x15200002 (withR1 (-7))) = some (-1) := by decide
theorem test_mod_min : regAfter 1 (runWord 0x1520FFFF (withR1 0x80000000)) = some 0 := by decide
theorem test_and : regAfter 1 (runWord 0x162000FF (withR1 (-2))) = some 254 := by decide
theorem test_or : regAfter 1 (runWord 0x17208000 (withR1 1)) = some 0xFFFF8001 := by decide
theorem test_xor : regAfter 1 (runWord 0x1820FFFF (withR1 5)) = some (-6) := by decide
theorem test_not : regAfter 1 (runWord 0x1B200000 (withR1 0x7FFFFFFF)) = some 0x80000000 := by
  decide
theorem test_not_reads_operand :
    faultOf (runWord 0x1B2A0046 (withR1 5)) = some (.addressOutOfBounds 70) := by decide
theorem test_shl : regAfter 1 (runWord 0x1920001F (withR1 3)) = some 0x80000000 := by decide
theorem test_shl_amount :
    faultOf (runWord 0x19200020 (withR1 1)) = some (.shiftAmountOutOfRange 32) := by decide
theorem test_shr : regAfter 1 (runWord 0x1A200004 (withR1 (-16))) = some 268435455 := by decide
theorem test_shr_amount :
    faultOf (runWord 0x1A200020 (withR1 (-1))) = some (.shiftAmountOutOfRange 32) := by decide
theorem test_shra : regAfter 1 (runWord 0x1C200001 (withR1 (-7))) = some (-4) := by decide
theorem test_shra_amount :
    faultOf (runWord 0x1C208000 (withR1 1)) = some (.shiftAmountOutOfRange (-32768)) := by decide
theorem test_comp :
    nextOf (·.sr) (runWord 0x1F280028 (small 0 #v[0, 0x80000000, 0, 0, 0, 0, 0, 0]
      [(40, 0x7FFFFFFF)])) = some ⟨true, false, false⟩ := by decide
theorem test_comp_index_zero :
    nextOf (·.sr) (runWord 0x1F200000 { small 0 #v[-100, -8, 0, 0, 0, 0, 0, 0] [] with
      sr := ⟨false, false, true⟩ }) = some ⟨true, false, false⟩ := by decide
theorem test_jump :
    pcAfter (runWord 0x20010002 (small 3 #v[0, 20, 0, 0, 0, 0, 0, 0] [])) = some 22 := by decide
theorem test_jump_outside : pcAfter (runWord 0x2000FFFF (withR1 0)) = some (-1) := by decide
theorem test_jneg : registerJump 0x21200007 = [some 7, some 4, some 4] := by decide
theorem test_jzer : registerJump 0x22200007 = [some 4, some 7, some 4] := by decide
theorem test_jzer_reads_operand :
    faultOf (runWord 0x22280046 (withR1 1)) = some (.addressOutOfBounds 70) := by decide
theorem test_jpos : registerJump 0x23200007 = [some 4, some 4, some 7] := by decide
theorem test_jnneg : registerJump 0x24200007 = [some 4, some 7, some 7] := by decide
theorem test_jnzer : registerJump 0x25200007 = [some 7, some 4, some 7] := by decide
theorem test_jnpos : registerJump 0x26200007 = [some 7, some 7, some 4] := by decide
theorem test_jles : flagJump 0x27000007 = [some 7, some 4, some 4, some 4] := by decide
theorem test_jequ : flagJump 0x28000007 = [some 4, some 7, some 4, some 4] := by decide
theorem test_jgre : flagJump 0x29000007 = [some 4, some 4, some 7, some 4] := by decide
theorem test_jnles : flagJump 0x2A000007 = [some 4, some 7, some 7, some 4] := by decide
theorem test_jnequ : flagJump 0x2B000007 = [some 7, some 4, some 7, some 4] := by decide
theorem test_jngre : flagJump 0x2C000007 = [some 7, some 7, some 4, some 4] := by decide
theorem test_push :
    nextOf (fun s => (s.reg 6, Memory.lookup s.mem 21)) (runWord 0x33C60000 (withSp 20 [])) =
      some (21, some 20) := by decide
theorem test_push_outside :
    faultOf (runWord 0x33C00007 (withSp 63 [])) = some (.addressOutOfBounds 64) := by decide
theorem test_pop_r0 :
    nextOf (fun s => (s.reg 0, s.reg 6)) (runWord 0x34C00000 (withSp 21 [(21, 7)])) =
      some (7, 20) := by decide
theorem test_pop_own_pointer :
    regAfter 6 (runWord 0x34C60000 (withSp 21 [(21, 40)])) = some 39 := by decide
theorem test_pushr :
    nextOf (fun s => (s.mem.map (·.2), s.reg 2))
      (runWord 0x35400000 (small 0 #v[10, 11, 30, 13, 14, 15, 16, 77] [])) =
      some ([0x35400000, 10, 11, 33, 13, 14, 15, 16], 37) := by decide
theorem test_pushr_outside :
    faultOf (runWord 0x35C00000 (withSp 58 [])) = some (.addressOutOfBounds 64) := by decide
theorem test_popr_redirected :
    nextOf (·.regs) (runWord 0x36C00000 (withSp 37
      [(37, 50), (44, 0), (45, 9), (46, 1), (47, 2), (48, 3), (49, 4), (50, 5)])) =
      some #v[0, 9, 1, 2, 3, 4, 43, 0] := by decide
theorem test_popr_other_pointer :
    nextOf (·.regs) (runWord 0x36400000 (small 0 #v[0, 0, 37, 0, 0, 0, 0, 0]
      [(31, 10), (32, 11), (33, 33), (34, 13), (35, 14), (36, 15), (37, 16)])) =
      some #v[10, 11, 30, 13, 14, 15, 16, 0] := by decide
theorem test_call :
    nextOf (fun s => (s.pc, s.reg 6, s.reg 7, Memory.lookup s.mem 51, Memory.lookup s.mem 52))
      (runWord 0x31CE0000 (small 10 #v[0, 0, 0, 0, 0, 0, 50, 3] [(50, 44)])) =
      some (44, 52, 52, some 11, some 3) := by decide
theorem test_call_fp :
    nextOf (fun s => (s.pc, s.reg 7, Memory.lookup s.mem 51, Memory.lookup s.mem 52))
      (runWord 0x31E00028 (small 10 #v[0, 0, 0, 0, 0, 0, 0, 50] [])) =
      some (40, 52, some 11, some 52) := by decide
theorem test_exit :
    nextOf (fun s => (s.pc, s.reg 6, s.reg 7))
      (runWord 0x32C00002 (small 45 #v[0, 0, 0, 0, 0, 0, 52, 52] [(51, 11), (52, 3)])) =
      some (11, 48, 3) := by decide
theorem test_exit_fp :
    nextOf (fun s => (s.pc, s.reg 7))
      (runWord 0x32E00001 (small 45 #v[0, 0, 0, 0, 0, 0, 0, 52] [(29, 0), (30, 11), (52, 30)])) =
      some (0, 27) := by decide
theorem test_svc :
    nextOf (fun s => (s.run, s.pc, s.reg 6)) (runWord 0x70C0000B (withSp 61 [])) =
        some (.halted, 9, 61) ∧
      nextOf (fun s => (Memory.lookup s.mem 21, s.reg 6, s.inputKbd))
        (runWord 0x70C0000C { withSp 20 [(20, 21)] with inputKbd := .word (-12) .ended }) =
        some (some (-12), 19, .ended) ∧
      nextOf (fun s => (s.outputCrt, s.reg 6)) (runWord 0x70C0000D (withSp 20 [(20, -77)])) =
        some ([-77], 19) ∧
      regAfter 6 (runWord 0x70C0000E (withSp 22 [(20, 40), (21, 40), (22, 40)])) = some 19 ∧
      regAfter 6 (runWord 0x70C0000F (withSp 22 [(20, 40), (21, 41), (22, 42)])) = some 19 := by
  decide
theorem test_svc_faults :
    faultOf (runWord 0x70C0000B (withSp 62 [])) = some (.addressOutOfBounds 64) ∧
      faultOf (runWord 0x70C00010 (withSp 20 [])) = some (.invalidService 16) ∧
      faultOf (runWord 0x70C0000C { withSp 20 [(20, 64)] with inputKbd := .word 1 .ended }) =
        some (.addressOutOfBounds 64) ∧
      faultOf (runWord 0x70C0000C (withSp 20 [(20, 40)])) = some (.inputExhausted 1) := by decide

/-! ### The symbolic language (spec/95_test_vectors.md 2.8, spec/47_compiler_control.md R175) -/

/-- The error of an instruction line, if any. -/
def asmError {α : Type} : Except AsmError α → Option AsmError
  | .ok _ => none
  | .error e => some e

/-- The words of a program, or the error. -/
def imageOf (lines : List Line) : Except AsmError (List Word) :=
  (assemble Params.default lines).map Image.words

theorem test_asm_rejects :
    asmError (assembleInstruction [] .load (some (.r 1)) (some (.immediate (.number 32768)))) =
        some (.constantOutOfRange 32768) ∧
      asmError (assembleInstruction [] .load (some (.r 1)) (some (.immediate (.number (-32769))))) =
        some (.constantOutOfRange (-32769)) ∧
      asmError (assembleInstruction [] .store (some (.r 1)) (some (.immediate (.number 5)))) =
        some (.notAnAddress .store) ∧
      asmError (assembleInstruction [] .store (some (.r 1)) (some (.register (.r 2)))) =
        some (.notAnAddress .store) ∧
      asmError (assembleInstruction [] .jump none (some (.immediate (.number 7)))) =
        some (.notAnAddress .jump) ∧
      asmError (assembleInstruction [] .pop (some .sp) (some (.immediate (.number 3)))) =
        some .notARegister ∧
      asmError (assembleInstruction [] .add none (some (.immediate (.number 3)))) =
        some (.missingRegister .add) ∧
      asmError (assembleInstruction [] .add (some (.r 1)) none) = some (.missingOperand .add) := by
  decide
theorem test_asm_words :
    (assembleInstruction [] .jump none (some (.indirectRegister (.r 1)))).map encode =
        .ok 0x20010000 ∧
      (assembleInstruction [] .not (some (.r 3)) none).map encode = .ok 0x1B600000 ∧
      (assembleInstruction [] .pushr (some .sp) none).map encode = .ok 0x35C00000 ∧
      (assembleInstruction [] .nop none none).map encode = .ok 0 := by decide

set_option maxRecDepth 4000 in
/-- The example of R175. -/
theorem test_asm_program :
    imageOf [.dc ['X'] 5,
      .instruction none .load (some (.r 1)) (some (.direct (.symbol ['X']))),
      .instruction none .add (some (.r 1)) (some (.immediate (.number 1))),
      .ds ['Y'] 2,
      .instruction none .store (some (.r 1)) (some (.direct (.symbol ['Y']))),
      .instruction none .svc (some .sp)
        (some (.immediate (.symbol ['H', 'A', 'L', 'T'])))] =
      .ok [0x02280004, 0x11200001, 0x01200005, 0x70C0000B, 5, 0, 0] := by decide

set_option maxRecDepth 4000 in
theorem test_asm_definitions :
    imageOf [.equ ['L'] 100, .instruction (some ['A']) .load (some (.r 1))
      (some (.immediate (.symbol ['L']))), .define .stdin ['/', 'x']] = .ok [0x02200064] ∧
      asmError (imageOf [.dc ['1', '2', '3'] 0]) = some (.badLabel ['1', '2', '3']) ∧
      asmError (imageOf [.dc ['X'] 2147483648]) = some (.dcOutOfRange 2147483648) ∧
      asmError (imageOf [.ds ['X'] 0]) = some (.dsSizeNotPositive 0) ∧
      labelKey ['C', 'O', 'U', 'N', 'T', 'E', 'R', '_', '1'] =
        labelKey ['C', 'O', 'U', 'N', 'T', 'E', 'R', '_', '2'] := by decide

set_option maxRecDepth 4000 in
theorem test_asm_symbols :
    asmError (imageOf [.equ ['C', 'O', 'U', 'N', 'T', 'E', 'R', '_', '1'] 1,
        .dc ['C', 'O', 'U', 'N', 'T', 'E', 'R', '_', '2'] 2]) =
        some (.duplicateLabel ['C', 'O', 'U', 'N', 'T', 'E', 'R', '_']) ∧
      asmError (imageOf [.instruction none .jump none (some (.direct (.symbol ['Q'])))]) =
        some (.undefinedSymbol ['Q']) := by decide

/-! ### Witnesses: the hypotheses of every obligation can be met, clause by clause -/

/-- The immediate operand `=a`. -/
def imm (a : Int) : Operand := ⟨.immediate, 0, a⟩

/-- A machine whose registers stand at the ends of its 64 words of memory. -/
def edge : State :=
  { small 63 #v[9, 62, 63, 64, -1, 61, 57, 56]
      [(0, 63), (1, 64), (2, -1), (62, 0x02200064), (63, 0x02200064)] with
    inputKbd := .prepend [1, 2] .ended, inputStdin := .word 3 .ended }

/-- The same machine with no input left. -/
def dry : State := { edge with inputKbd := .ended, inputStdin := .ended }

/-- Three parameters on the stack of R6: the addresses 40, 41 and 42. -/
def clocked : State := withSp 22 [(20, 40), (21, 41), (22, 42)]

theorem witness_DecodeEncode :
    (Instr.load 1 (imm (-32768))).WellFormed ∧ (Instr.svc 7 ⟨.indirect, 7, 32767⟩).WellFormed := by
  decide
theorem witness_EncodeDecode :
    decode 0x00000000 = .ok (.nop 0 (imm 0)) ∧
      decode 0x70F7FFFF = .ok (.svc 7 ⟨.indirect, 7, -1⟩) := by decide
theorem witness_IllegalInstructionExactly :
    edge.run = .running ∧ edge.ValidAddress edge.pc ∧
      faultOf (runWord 0x05000000 edge) = some (.illegalInstruction 0x05000000) ∧
      faultOf (runWord 0x00180000 edge) = some (.illegalInstruction 0x00180000) ∧
      faultOf (runWord 0x00000000 edge) = none := by decide
theorem witness_StepRunsDecoded :
    edge.run = .running ∧ edge.ValidAddress edge.pc ∧
      decode (edge.word edge.pc.toNat) = .ok (.load 1 (imm 100)) := by decide
theorem witness_FetchOutsideMemoryFaults :
    ¬edge.ValidAddress 64 ∧ ¬edge.ValidAddress (-1) ∧
      ¬(State.reset.setPc 0x80000000).ValidAddress 0x80000000 := by decide
theorem witness_NoStepAfterTheEnd :
    (edge.setRun .halted).run ≠ .running ∧ (edge.setRun (.faulted .divisionByZero)).run ≠ .running := by
  decide
theorem witness_FetchSeesTheStore :
    let s := small 62 #v[0, 5, 0, 0, 0, 0, 0, 0] [(62, 0x0120003F)]
    s.run = .running ∧ s.ValidAddress s.pc ∧
      decode (s.word s.pc.toNat) = .ok (.store 1 (imm 63)) ∧
      (s.setPc (s.pc + 1)).OperandReadable (imm 63) ∧
      (s.setPc (s.pc + 1)).operandWord (imm 63) = s.pc + 1 ∧ s.ValidAddress (s.pc + 1) := by decide
theorem witness_OperandEvaluation :
    edge.ValidAddress 0 ∧ edge.ValidAddress 63 ∧ ¬edge.ValidAddress 64 ∧ ¬edge.ValidAddress (-1) ∧
      edge.ValidAddress (edge.word 0) ∧ ¬edge.ValidAddress (edge.word 1) ∧
      ¬edge.ValidAddress (edge.word 2) := by decide
theorem witness_OperandFaultComesFirst :
    ∀ op ∈ [(⟨.direct, 0, 64⟩ : Operand), ⟨.direct, 0, -1⟩, ⟨.indirect, 0, 64⟩, ⟨.indirect, 0, 1⟩,
      ⟨.indirect, 0, 2⟩], ¬edge.OperandReadable op := by decide
theorem witness_IndexRegisterZero : (1 : Reg) ≠ 0 ∧ (7 : Reg) ≠ 0 := by decide
/-- Every mode can be readable: the one hypothesis of NopResult, LoadResult, LogicBits, CompResult,
RegisterJumps, FlagJumps and PoprIsSevenPops. -/
theorem witness_readable :
    ∀ op ∈ [imm 32767, (⟨.direct, 0, 63⟩ : Operand), ⟨.direct, 1, 1⟩, ⟨.indirect, 0, 0⟩],
      edge.OperandReadable op := by decide
theorem witness_StoreResult :
    (∀ a ∈ [(0 : Int), 63], edge.OperandReadable (imm a) ∧
      edge.ValidAddress (edge.operandWord (imm a))) ∧
      ∀ a ∈ [(64 : Int), -1], edge.OperandReadable (imm a) ∧
        ¬edge.ValidAddress (edge.operandWord (imm a)) := by decide
theorem witness_InResult :
    edge.params.Valid ∧ dry.params.Valid ∧
      (∀ a ∈ [(0 : Int), 1, 2, 5, 6, 7], edge.OperandReadable (imm a) ∧ dry.OperandReadable (imm a)) ∧
      (edge.operandWord (imm 1) = edge.params.devKbd ∧ edge.inputKbd = .word 1 (.word 2 .ended)) ∧
      (edge.operandWord (imm 6) = edge.params.devStdin ∧ edge.inputStdin = .word 3 .ended) ∧
      (dry.operandWord (imm 1) = dry.params.devKbd ∧ dry.inputKbd = .ended) ∧
      (dry.operandWord (imm 6) = dry.params.devStdin ∧ dry.inputStdin = .ended) ∧
      ∀ a ∈ [(0 : Int), 2, 5, 7], edge.operandWord (imm a) ≠ edge.params.devKbd ∧
        edge.operandWord (imm a) ≠ edge.params.devStdin := by decide
/-- The two ways a sequence supplies a word: the listed word, and that of an infinite sequence, which
is infinite after it too. -/
theorem witness_Supplies :
    edge.inputKbd.Supplies 1 (.word 2 .ended) ∧ edge.inputStdin.Supplies 3 .ended ∧
      (InputSequence.endless 4 0).Supplies (Config.inputWord 4 0) (.endless 4 1) :=
  ⟨.inl rfl, .inl rfl, .inr ⟨4, 0, rfl, rfl, rfl⟩⟩
theorem witness_ExhaustedInputFaults :
    dry.params.Valid ∧ (∀ a ∈ [(1 : Int), 6, 12], dry.OperandReadable (imm a)) ∧
      (dry.operandWord (imm 1) = dry.params.devKbd ∧ dry.inputKbd = .ended) ∧
      (dry.operandWord (imm 6) = dry.params.devStdin ∧ dry.inputStdin = .ended) ∧
      dry.operandWord (imm 12) = dry.params.svcRead ∧ dry.ValidAddress (dry.reg 5) ∧
      dry.ValidAddress (dry.reg 5 + 1) ∧ dry.ValidAddress (dry.reg 5 + 2) := by decide
theorem witness_OutResult :
    edge.params.Valid ∧ (∀ a ∈ [(-1 : Int), 0, 1, 6, 7, 8], edge.OperandReadable (imm a)) ∧
      edge.operandWord (imm 0) = edge.params.devCrt ∧
      edge.operandWord (imm 7) = edge.params.devStdout ∧
      ∀ a ∈ [(-1 : Int), 1, 6, 8], edge.operandWord (imm a) ≠ edge.params.devCrt ∧
        edge.operandWord (imm a) ≠ edge.params.devStdout := by decide
theorem witness_AddSubMulResult :
    let s := withR1 0x7FFFFFFF
    let x := (s.reg 1).toInt
    (∀ v ∈ [(0 : Int), 1, -1, 2], s.OperandReadable (imm v) ∧ v = (s.operandWord (imm v)).toInt) ∧
      fits32 (x + 0) ∧ ¬fits32 (x + 1) ∧ fits32 (x - 0) ∧ ¬fits32 (x - -1) ∧ fits32 (x * -1) ∧
      ¬fits32 (x * 2) := by decide
theorem witness_DivModResult :
    let s := withR1 0x80000000
    let n := (s.reg 1).toInt
    (∀ d ∈ [(0 : Int), 1, -1, -2], s.OperandReadable (imm d) ∧ d = (s.operandWord (imm d)).toInt) ∧
      n = -2147483648 ∧ ¬(n = -2147483648 ∧ (1 : Int) = -1) ∧
      ¬(n = -2147483648 ∧ (-2 : Int) = -1) ∧ (1 : Int) ≠ 0 ∧ (-1 : Int) ≠ 0 := by decide
theorem witness_DivisionLaw :
    let s := withR1 (-7)
    s.OperandReadable (imm 2) ∧ (-7 : Int) = (s.reg 1).toInt ∧
      (2 : Int) = (s.operandWord (imm 2)).toInt ∧ (2 : Int) ≠ 0 := by decide
theorem witness_ShiftResult :
    (∀ n ∈ [(0 : Nat), 31], edge.OperandReadable (imm (n : Int)) ∧
      (edge.operandWord (imm (n : Int))).toInt = n ∧ n ≤ 31) ∧
      ∀ n ∈ [(-1 : Int), 32], edge.OperandReadable (imm n) ∧ (edge.operandWord (imm n)).toInt = n ∧
        (n < 0 ∨ 31 < n) := by decide
theorem witness_ShiftBits :
    edge.OperandReadable (imm 31) ∧ (edge.operandWord (imm 31)).toInt = (31 : Nat) ∧ 31 ≤ 31 := by
  decide
theorem witness_NegatedJumpsAfterComp :
    (edge.sr = ⟨false, false, false⟩ ∧ edge.OperandReadable (imm 7)) ∧
      ∃ t, exec (.comp 1 (imm 62)) edge = .next t ∧ t.OperandReadable (imm 7) :=
  ⟨by decide, _, rfl, by decide⟩
theorem witness_PushResult :
    edge.OperandReadable (imm 7) ∧ edge.ValidAddress (edge.reg 1 + 1) ∧
      edge.ValidAddress (edge.reg 4 + 1) ∧ ¬edge.ValidAddress (edge.reg 2 + 1) := by decide
theorem witness_PopResult :
    edge.OperandReadable ⟨.immediate, 2, 0⟩ ∧
      (edge.ValidAddress (edge.reg 1) ∧ (2 : Reg) ≠ 1) ∧ edge.ValidAddress (edge.reg 2) ∧
      ¬edge.ValidAddress (edge.reg 3) ∧ ¬edge.ValidAddress (edge.reg 4) := by decide
theorem witness_PushrResult :
    edge.OperandReadable (imm 0) ∧
      (∀ k : Nat, k < 7 → edge.ValidAddress (edge.reg 7 + BitVec.ofNat 32 (k + 1))) ∧
      ¬edge.ValidAddress (edge.reg 2 + BitVec.ofNat 32 (0 + 1)) ∧
      (∀ l : Nat, l < 6 → edge.ValidAddress (edge.reg 6 + BitVec.ofNat 32 (l + 1))) ∧
      ¬edge.ValidAddress (edge.reg 6 + BitVec.ofNat 32 (6 + 1)) := by decide
theorem witness_PoprResult :
    let s := small 0 #v[0, 0, 0, 0, 0, 0, 63, 6] [(63, 63)]
    s.OperandReadable (imm 0) ∧
      (∀ k : Nat, k < 7 → s.ValidAddress (s.reg 7 - BitVec.ofNat 32 k)) ∧
      (∀ k : Nat, k < 7 → s.ValidAddress (s.reg 6 - BitVec.ofNat 32 k)) ∧
      s.word (s.reg 6 - BitVec.ofNat 32 (6 - (6 : Reg).val)).toNat =
        s.reg 6 - BitVec.ofNat 32 (6 - (6 : Reg).val) := by decide
theorem witness_PoprUndoesPushr :
    ∃ t, exec (.pushr 7 (imm 0)) edge = .next t ∧ t.OperandReadable (imm 0) :=
  ⟨_, rfl, by decide⟩
theorem witness_CallResult :
    edge.OperandReadable (imm 7) ∧
      (edge.ValidAddress (edge.reg 5 + 1) ∧ edge.ValidAddress (edge.reg 5 + 2)) ∧
      ¬edge.ValidAddress (edge.reg 2 + 1) ∧
      (edge.ValidAddress (edge.reg 1 + 1) ∧ ¬edge.ValidAddress (edge.reg 1 + 2)) := by decide
theorem witness_ExitResult :
    let s := small 0 #v[0, 1, 0, 0, 0, 0, 0, 63] [(0, 0), (63, 1)]
    s.OperandReadable (imm 2) ∧
      (s.ValidAddress (s.reg 1) ∧ s.ValidAddress (s.reg 1 - 1)) ∧
      (s.ValidAddress (s.reg 7) ∧ s.ValidAddress (s.word (s.reg 7).toNat - 1)) ∧
      ¬edge.ValidAddress (edge.reg 3) ∧
      (s.ValidAddress (s.reg 0) ∧ ¬s.ValidAddress (s.reg 0 - 1)) := by decide
theorem witness_ExitReturnsFromCall :
    ∃ t u : State, (6 : Reg) ≠ 7 ∧ exec (.call 6 (imm 7)) edge = .next t ∧ u.params = t.params ∧
      u.reg 6 = t.reg 6 ∧ u.word (edge.reg 6 + 1).toNat = t.word (edge.reg 6 + 1).toNat ∧
      u.word (edge.reg 6 + 2).toNat = t.word (edge.reg 6 + 2).toNat ∧ u.OperandReadable (imm 2) ∧
      u.reg 7 ≠ t.reg 7 ∧ u.pc ≠ t.pc :=
  ⟨_, small 30 #v[0, 0, 0, 0, 0, 0, 59, 5] [(58, 63), (59, 56)], by decide, rfl, rfl, by decide,
    by decide, by decide, by decide, by decide, by decide⟩
theorem witness_InvalidServiceFaults :
    ∀ v ∈ [(10 : Int), 16, -1], edge.OperandReadable (imm v) ∧ edge.operandWord (imm v) ∉
      [edge.params.svcHalt, edge.params.svcRead, edge.params.svcWrite, edge.params.svcTime,
        edge.params.svcDate] := by decide
theorem witness_ScratchFaults :
    (∀ v ∈ [(11 : Int), 12, 13, 14, 15], edge.OperandReadable (imm v) ∧ edge.operandWord (imm v) ∈
      [edge.params.svcHalt, edge.params.svcRead, edge.params.svcWrite, edge.params.svcTime,
        edge.params.svcDate]) ∧
      ¬edge.ValidAddress (edge.reg 2 + 1) ∧
      (edge.ValidAddress (edge.reg 1 + 1) ∧ ¬edge.ValidAddress (edge.reg 1 + 2)) := by decide
theorem witness_SvcHaltResult :
    edge.params.Valid ∧ edge.OperandReadable (imm 11) ∧
      edge.operandWord (imm 11) = edge.params.svcHalt ∧ edge.ValidAddress (edge.reg 5 + 1) ∧
      edge.ValidAddress (edge.reg 5 + 2) := by decide
theorem witness_SvcReadResult :
    let s : State := ⟨#v[2, -1, 0, 0, 0, 0, 0, 0], 8, ⟨false, false, false⟩, [(0, 63), (2, 64)],
      .running, .word 1 .ended, .ended, [], [], edge.params, 0⟩
    s.params.Valid ∧ s.OperandReadable (imm 12) ∧ s.operandWord (imm 12) = s.params.svcRead ∧
      (∀ j ∈ [(0 : Reg), 1, 2], s.ValidAddress (s.reg j + 1) ∧ s.ValidAddress (s.reg j + 2)) ∧
      (s.ValidAddress (s.reg 2) ∧ s.inputKbd = .word 1 .ended ∧ s.ValidAddress (s.word (s.reg 2).toNat)) ∧
      ¬s.ValidAddress (s.reg 1) ∧
      (s.ValidAddress (s.reg 0) ∧ s.inputKbd ≠ .ended ∧ ¬s.ValidAddress (s.word (s.reg 0).toNat)) := by
  decide
theorem witness_SvcReadResult_dry :
    dry.params.Valid ∧ dry.OperandReadable (imm 12) ∧
      dry.operandWord (imm 12) = dry.params.svcRead ∧ dry.ValidAddress (dry.reg 5 + 1) ∧
      dry.ValidAddress (dry.reg 5 + 2) ∧ dry.inputKbd = .ended := by decide
theorem witness_SvcWriteResult :
    edge.params.Valid ∧ edge.OperandReadable (imm 13) ∧
      edge.operandWord (imm 13) = edge.params.svcWrite ∧
      (∀ j ∈ [(4 : Reg), 5], edge.ValidAddress (edge.reg j + 1) ∧
        edge.ValidAddress (edge.reg j + 2)) ∧
      edge.ValidAddress (edge.reg 5) ∧ ¬edge.ValidAddress (edge.reg 4) := by decide
theorem witness_SvcClockResult :
    let x := clocked.reg 6
    clocked.params.Valid ∧ (∀ v ∈ [(14 : Int), 15], clocked.OperandReadable (imm v)) ∧
      clocked.operandWord (imm 14) = clocked.params.svcTime ∧
      clocked.operandWord (imm 15) = clocked.params.svcDate ∧
      (∀ k ∈ [(18 : Int), 19, 20, 21, 22, 38, 39, 40], clocked.ValidAddress (wrap32 (k + 2))) ∧
      x = 22 ∧ clocked.word x.toNat = 42 ∧ clocked.word (x - 1).toNat = 41 ∧
      clocked.word (x - 2).toNat = 40 ∧
      clocked.word (x - 1).toNat ≠ clocked.word x.toNat ∧
      clocked.word (x - 2).toNat ≠ clocked.word (x - 1).toNat ∧
      clocked.word (x - 2).toNat ≠ clocked.word x.toNat := by decide
theorem witness_SvcClockFaults :
    let s := small 8 #v[0, 0, 0, 0, 0, -1, 2, 0] [(0, 0), (1, 63), (2, 64)]
    s.params.Valid ∧ s.OperandReadable (imm 14) ∧ s.operandWord (imm 14) = s.params.svcTime ∧
      (∀ j ∈ [(5 : Reg), 6], s.ValidAddress (s.reg j + 1) ∧ s.ValidAddress (s.reg j + 2)) ∧
      ¬s.ValidAddress (s.reg 5) ∧
      s.ValidAddress (s.reg 6) ∧ s.ValidAddress (s.reg 6 - 1) ∧ s.ValidAddress (s.reg 6 - 2) ∧
      s.ValidAddress (s.word (s.reg 6 - 2).toNat) ∧ s.ValidAddress (s.word (s.reg 6 - 1).toNat) ∧
      ¬s.ValidAddress (s.word (s.reg 6).toNat) := by decide
/-- The hypotheses of FrameRegisters, FrameMemory, FrameFlags, FramePc and FrameEnvironment. -/
theorem witness_frames :
    ∃ t, exec (.push 5 (imm 7)) edge = .next t ∧ (6 : Reg) ∉ registersWritten (.push 5 (imm 7)) ∧
      edge.storedAddresses (.push 5 (imm 7)) = [62] ∧
      (∀ rj op, Instr.push 5 (imm 7) ≠ .comp rj op) ∧
      transfersControl (.push 5 (imm 7)) = false ∧
      (∀ rj op, Instr.push 5 (imm 7) ≠ .inp rj op) ∧
      (∀ rj op, Instr.push 5 (imm 7) ≠ .out rj op) ∧
      ∀ rj op, Instr.push 5 (imm 7) ≠ .svc rj op :=
  ⟨_, rfl, by decide, by decide, nofun, rfl, nofun, nofun, nofun⟩
theorem witness_StepKeepsInv : ∃ t, edge.Inv ∧ step edge = .next t :=
  ⟨_, ⟨by decide, by decide, by decide, nofun⟩, rfl⟩
theorem witness_LoadInv :
    Params.default.Valid ∧ ∃ s, State.load Params.default [1, 2] 5 (.endless 0 0) .ended = some s :=
  ⟨by decide, _, rfl⟩
theorem witness_HaltedOnlyByHalt :
    ∃ t, (edge.setPc 0).run = .running ∧
      step ((edge.setPc 0).setWord 0 0x70A0000B) = .next t ∧ t.run ≠ .running :=
  ⟨_, by decide, rfl, by decide⟩
theorem witness_LoadResultState :
    [(7 : Word), 8].length ≤ { Params.default with memWords := 2 }.memWords ∧
      { Params.default with memWords := 1 }.memWords < [(7 : Word), 8].length := by decide
/-- The constants of OperandFormFields and AddressFormMeaning reach both ends of the range. -/
theorem witness_constants : addrInRange (-32768) ∧ addrInRange 32767 := by decide
theorem witness_AssembledIsWellFormed :
    assembleInstruction [] .call (some .sp) (some (.direct (.number 7))) = .ok (.call 6 (imm 7)) := by
  decide
theorem witness_LabelsNameTheirWords :
    ∃ i, assemble Params.default ([.dc ['X'] 5] ++ .instruction (some ['A']) .nop none none ::
        [.dc ['Y'] (-1)]) = .ok i ∧
      assemble Params.default ([.dc ['X'] 5, .instruction (some ['A']) .nop none none] ++
        .dc ['Y'] (-1) :: []) = .ok i :=
  ⟨⟨[0], [5, -1]⟩, by decide, by decide⟩

end Sys2Proof.Machine
end

section
/-! SUPPORT. The invariant of the machine (R3, R16, R31, R181): every update keeps it, so every
operation, every instruction and every step does. -/

namespace Sys2Proof.Machine

/-! ### What a step is -/

/-- A step answers a next state exactly where the machine runs, the fetched word is an instruction,
and that instruction answers it from the advanced `pc` (R20, R53). -/
theorem step_eq_next (s t : State) :
    step s = .next t ↔
      s.run = .running ∧
        ∃ w i, s.fetch = .ok w ∧ decode w = .ok i ∧ exec i s.advancePc = .next t := by
  unfold step
  cases s.run with
  | running =>
    cases s.fetch with
    | error f => simp [raise]
    | ok w => cases hd : decode w <;> simp [raise, hd]
  | halted => simp
  | faulted f => simp [raise]

/-! ### Updates

The invariant speaks of the parameters, memory, the flags and the run state: an update of another
field keeps it because it says the same of both states. -/

theorem setReg_inv {s : State} (h : s.Inv) (i : Reg) (v : Word) : (s.setReg i v).Inv := h

theorem setPc_inv {s : State} (h : s.Inv) (a : Word) : (s.setPc a).Inv := h

theorem spendDraws_inv {s : State} (h : s.Inv) (n : Nat) : (s.spendDraws n).Inv := h

theorem setInput_inv {s : State} (h : s.Inv) (d : InputDevice) (ws : InputSequence) :
    (s.setInput d ws).Inv := by
  cases d <;> exact h

theorem putOutput_inv {s : State} (h : s.Inv) (d : OutputDevice) (v : Word) :
    (s.putOutput d v).Inv := by
  cases d <;> exact h

/-- Legal flags may replace the flags. -/
theorem setSr_inv {s : State} (h : s.Inv) {sr : StatusRegister} (hsr : sr.Legal) :
    (s.setSr sr).Inv := by
  obtain ⟨hparams, hmem, -, hrun⟩ := h
  exact ⟨hparams, hmem, hsr, hrun⟩

/-- A run state that is no fault may replace the run state. -/
theorem setRun_inv {s : State} (h : s.Inv) {r : RunState} (hr : ∀ f, r ≠ .faulted f) :
    (s.setRun r).Inv := by
  obtain ⟨hparams, hmem, hsr, -⟩ := h
  exact ⟨hparams, hmem, hsr, hr⟩

/-- A store to a valid address keeps memory canonical and inside its bounds (R31). -/
theorem setWord_inv {s : State} (h : s.Inv) {a : Word} (ha : s.ValidAddress a) (v : Word) :
    (s.setWord a.toNat v).Inv := by
  obtain ⟨hparams, ⟨hwf, hbound⟩, hsr, hrun⟩ := h
  refine ⟨hparams, ⟨setWord_wf s a.toNat v hwf, fun c hc => ?_⟩, hsr, hrun⟩
  rcases mem_write s.mem a.toNat v c hc with rfl | hold
  · exact validAddress_lt s a ha
  · exact hbound c hold

/-- COMP leaves exactly one flag set (R104), so at most one (R16). -/
theorem compareFlags_legal (x v : Word) : (compareFlags x v).Legal := by
  simp only [StatusRegister.Legal, compareFlags, decide_eq_true_eq]
  omega

/-! ### Shared operations -/

theorem memWrite_inv {s t : State} (h : s.Inv) {a v : Word} (hw : s.memWrite a v = .ok t) :
    t.Inv := by
  obtain ⟨ha, rfl⟩ := (memWrite_eq_ok s t a v).mp hw
  exact setWord_inv h ha v

theorem pushFrom_inv {s t : State} (h : s.Inv) {j : Reg} {v : State → Word}
    (hp : s.pushFrom j v = .ok t) : t.Inv := by
  obtain ⟨ha, rfl⟩ := (pushFrom_eq_ok s t j v).mp hp
  exact setWord_inv (setReg_inv h j _) ha _

theorem popInto_inv {s t : State} (h : s.Inv) {j k : Reg} (hp : s.popInto j k = .ok t) :
    t.Inv := by
  obtain ⟨-, rfl⟩ := (popInto_eq_ok s t j k).mp hp
  exact setReg_inv (setReg_inv h k _) j _

theorem pushAll_inv {s t : State} (h : s.Inv) {j : Reg} {ks : List Reg}
    (hp : s.pushAll j ks = .ok t) : t.Inv := by
  induction ks generalizing s with
  | nil => exact Except.ok.inj hp ▸ h
  | cons k ks ih =>
    obtain ⟨s', hpush, hrest⟩ := (bind_eq_ok _ _ _).mp hp
    exact ih (pushFrom_inv h hpush) hrest

theorem popAll_inv {s t : State} (h : s.Inv) {j : Reg} {ks : List Reg}
    (hp : s.popAll j ks = .ok t) : t.Inv := by
  induction ks generalizing s with
  | nil => exact Except.ok.inj hp ▸ h
  | cons k ks ih =>
    obtain ⟨s', hpop, hrest⟩ := (bind_eq_ok _ _ _).mp hp
    exact ih (popInto_inv h hpop) hrest

theorem takeInput_inv {s t : State} (h : s.Inv) {d : InputDevice} {v : Word}
    (hi : s.takeInput d = .ok (v, t)) : t.Inv := by
  obtain ⟨rest, -, rfl⟩ := (takeInput_eq_ok s t d v).mp hi
  exact setInput_inv h d rest

theorem scratch_inv {s t : State} (h : s.Inv) {top : Word} (hs : s.scratch top = .ok t) :
    t.Inv := by
  obtain ⟨h1, h2, rfl⟩ := (scratch_eq_ok s t top).mp hs
  exact spendDraws_inv (setWord_inv (setWord_inv h h1 _) h2 _) 2

/-! ### Services -/

theorem serviceRead_inv {s t : State} (h : s.Inv) {rj : Reg} {top : Word}
    (hs : serviceRead rj top s = .ok t) : t.Inv := by
  obtain ⟨addr, -, hs⟩ := (bind_eq_ok _ _ _).mp hs
  obtain ⟨⟨v, s1⟩, hinput, hs⟩ := (bind_eq_ok _ _ _).mp hs
  obtain ⟨s2, hwrite, hs⟩ := (bind_eq_ok _ _ _).mp hs
  obtain rfl := Except.ok.inj hs
  exact setReg_inv (memWrite_inv (takeInput_inv h hinput) hwrite) rj _

theorem serviceWrite_inv {s t : State} (h : s.Inv) {rj : Reg} {top : Word}
    (hs : serviceWrite rj top s = .ok t) : t.Inv := by
  obtain ⟨v, -, hs⟩ := (bind_eq_ok _ _ _).mp hs
  obtain rfl := Except.ok.inj hs
  exact setReg_inv (putOutput_inv h .crt v) rj _

theorem serviceClock_inv {s t : State} (h : s.Inv) {rj : Reg} {top : Word}
    (hs : serviceClock rj top s = .ok t) : t.Inv := by
  obtain ⟨third, -, hs⟩ := (bind_eq_ok _ _ _).mp hs
  obtain ⟨second, -, hs⟩ := (bind_eq_ok _ _ _).mp hs
  obtain ⟨first, -, hs⟩ := (bind_eq_ok _ _ _).mp hs
  obtain ⟨s1, hfirst, hs⟩ := (bind_eq_ok _ _ _).mp hs
  obtain ⟨s2, hsecond, hs⟩ := (bind_eq_ok _ _ _).mp hs
  obtain ⟨s3, hthird, hs⟩ := (bind_eq_ok _ _ _).mp hs
  obtain rfl := Except.ok.inj hs
  have h3 : s3.Inv := memWrite_inv (memWrite_inv (memWrite_inv h hfirst) hsecond) hthird
  exact setReg_inv (spendDraws_inv h3 3) rj _

theorem runService_inv {s t : State} (h : s.Inv) {rj : Reg} {top : Word} {service : Service}
    (hs : runService rj top s service = .ok t) : t.Inv := by
  cases service with
  | halt => exact Except.ok.inj hs ▸ setRun_inv h nofun
  | read => exact serviceRead_inv h hs
  | write => exact serviceWrite_inv h hs
  | time => exact serviceClock_inv h hs
  | date => exact serviceClock_inv h hs

/-! ### Instructions -/

/-- An instruction keeps the invariant where its operation does, whatever the operand's value. -/
theorem withOperand_inv {op : Operand} {s t : State} {f : Word → Except Fault State}
    (hn : withOperand op s f = .next t) (hf : ∀ v, f v = .ok t → t.Inv) : t.Inv := by
  obtain ⟨v, -, hv⟩ := (withOperand_eq_next op s t f).mp hn
  exact hf v hv

theorem operate_inv {s t : State} (h : s.Inv) {f : Word → Word → Except Fault Word} {rj : Reg}
    {op : Operand} (hn : operate f rj op s = .next t) : t.Inv := by
  obtain ⟨-, r, -, rfl⟩ := operate_next f rj op s t hn
  exact setReg_inv h rj r

theorem jumpIf_inv {s t : State} (h : s.Inv) {taken : Bool} {op : Operand}
    (hn : jumpIf taken op s = .next t) : t.Inv := by
  refine withOperand_inv hn fun v hv => ?_
  obtain rfl := Except.ok.inj hv
  cases taken with
  | true => exact setPc_inv h v
  | false => exact h

theorem execIn_inv {s t : State} (h : s.Inv) {rj : Reg} {op : Operand}
    (hn : execIn rj op s = .next t) : t.Inv := by
  refine withOperand_inv hn fun v hv => ?_
  split at hv
  · cases hv
  · obtain ⟨⟨w, s'⟩, hinput, hv⟩ := (bind_eq_ok _ _ _).mp hv
    obtain rfl := Except.ok.inj hv
    exact setReg_inv (takeInput_inv h hinput) rj w

theorem execOut_inv {s t : State} (h : s.Inv) {rj : Reg} {op : Operand}
    (hn : execOut rj op s = .next t) : t.Inv := by
  refine withOperand_inv hn fun v hv => ?_
  split at hv
  · cases hv
  · exact Except.ok.inj hv ▸ putOutput_inv h _ _

theorem execCall_inv {s t : State} (h : s.Inv) {rj : Reg} {op : Operand}
    (hn : execCall rj op s = .next t) : t.Inv := by
  refine withOperand_inv hn fun v hv => ?_
  obtain ⟨s1, hreturn, hv⟩ := (bind_eq_ok _ _ _).mp hv
  obtain ⟨s2, hfp, hv⟩ := (bind_eq_ok _ _ _).mp hv
  obtain rfl := Except.ok.inj hv
  exact setReg_inv (setPc_inv (pushFrom_inv (pushFrom_inv h hreturn) hfp) v) .fp _

theorem execExit_inv {s t : State} (h : s.Inv) {rj : Reg} {op : Operand}
    (hn : execExit rj op s = .next t) : t.Inv := by
  refine withOperand_inv hn fun v hv => ?_
  obtain ⟨s1, hfp, hv⟩ := (bind_eq_ok _ _ _).mp hv
  obtain ⟨a, -, hv⟩ := (bind_eq_ok _ _ _).mp hv
  obtain rfl := Except.ok.inj hv
  exact setReg_inv (setReg_inv (setPc_inv (popInto_inv h hfp) a) rj _) rj _

theorem execSvc_inv {s t : State} (h : s.Inv) {rj : Reg} {op : Operand}
    (hn : execSvc rj op s = .next t) : t.Inv := by
  refine withOperand_inv hn fun v hv => ?_
  split at hv
  · cases hv
  · obtain ⟨s1, hscratch, hv⟩ := (bind_eq_ok _ _ _).mp hv
    exact runService_inv (scratch_inv h hscratch) hv

/-- Every instruction that answers a next state keeps the invariant. -/
theorem exec_inv {i : Instr} {s t : State} (h : s.Inv) (hn : exec i s = .next t) : t.Inv := by
  cases i with
  | nop => exact withOperand_inv hn fun _ hv => Except.ok.inj hv ▸ h
  | store => exact withOperand_inv hn fun _ => memWrite_inv h
  | load => exact withOperand_inv hn fun v hv => Except.ok.inj hv ▸ setReg_inv h _ v
  | comp =>
    exact withOperand_inv hn fun _ hv => Except.ok.inj hv ▸ setSr_inv h (compareFlags_legal _ _)
  | inp => exact execIn_inv h hn
  | out => exact execOut_inv h hn
  | add | sub | mul | div | mod | shl | shr | shra => exact operate_inv h hn
  | and | or | xor | not =>
    simp only [exec, execAnd, execOr, execXor, execNot] at hn
    exact operate_inv h hn
  | jump | jneg | jzer | jpos | jnneg | jnzer | jnpos | jles | jequ | jgre | jnles | jnequ
  | jngre => exact jumpIf_inv h hn
  | call => exact execCall_inv h hn
  | exit => exact execExit_inv h hn
  | push => exact withOperand_inv hn fun _ => pushFrom_inv h
  | pop => exact withOperand_inv hn fun _ => popInto_inv h
  | pushr => exact withOperand_inv hn fun _ => pushAll_inv h
  | popr => exact withOperand_inv hn fun _ => popAll_inv h
  | svc => exact execSvc_inv h hn

/-! ### The step -/

/-- Settles O50: a step that answers is an instruction run from the advanced `pc`, and every
instruction keeps the invariant. -/
theorem stepKeepsInv : Obligations.StepKeepsInv := by
  intro s t hinv hstep
  obtain ⟨-, _, _, -, -, hexec⟩ := (step_eq_next s t).mp hstep
  exact exec_inv (setPc_inv hinv _) hexec

end Sys2Proof.Machine
end

section
/-! SUPPORT. Frames: which parts of the state an instruction may change (R11 to R16, R19, R20, R22).
The parts and what each instruction writes of them are said once; every operation, and so every
instruction, agrees with the state it started from on all other parts. -/

namespace Sys2Proof.Machine

/-! ### The parts of a state -/

/-- The parts of the state whose frame does not depend on addresses: everything but memory. -/
inductive Part where
  | reg (k : Reg)
  | pc
  | flags
  | run
  | input (d : InputDevice)
  | output (d : OutputDevice)
  | params
  | draws

/-- Two states hold the same in a part. -/
def Part.Same (s t : State) : Part → Prop
  | .reg k => t.reg k = s.reg k
  | .pc => t.pc = s.pc
  | .flags => t.sr = s.sr
  | .run => t.run = s.run
  | .input d => t.input d = s.input d
  | .output d => t.output d = s.output d
  | .params => t.params = s.params
  | .draws => t.draws = s.draws

theorem Part.Same.refl (s : State) (p : Part) : p.Same s s := by
  cases p <;> rfl

theorem Part.Same.trans {s t u : State} {p : Part} (h : p.Same s t) (h' : p.Same t u) :
    p.Same s u := by
  cases p <;> exact Eq.trans h' h

/-- Two states hold the same in every part that `w` does not allow to be written. -/
def AgreeOutside (w : Part → Prop) (s t : State) : Prop := ∀ p, ¬w p → p.Same s t

/-- The parts an instruction may write: registers by the column "writes" of R13, `pc` by the control
transfers (R15), the flags by COMP (R16), the environment by IN, OUT and SVC (R19), the run state and
the draws by SVC (R20), the parameters by nothing (R22). -/
def Writes (i : Instr) : Part → Prop
  | .reg k => k ∈ registersWritten i
  | .pc => transfersControl i = true
  | .flags => ∃ rj op, i = .comp rj op
  | .run | .draws => ∃ rj op, i = .svc rj op
  | .input _ => (∃ rj op, i = .inp rj op) ∨ ∃ rj op, i = .svc rj op
  | .output _ => (∃ rj op, i = .out rj op) ∨ ∃ rj op, i = .svc rj op
  | .params => False

/-! ### Updates: each lemma extends an agreement by one update of a part that may be written -/

section Agreement

variable {w : Part → Prop} {s t u : State}

theorem AgreeOutside.refl (w : Part → Prop) (s : State) : AgreeOutside w s s :=
  fun p _ => .refl s p

theorem AgreeOutside.trans (h : AgreeOutside w s t) (h' : AgreeOutside w t u) :
    AgreeOutside w s u :=
  fun p hp => (h p hp).trans (h' p hp)

theorem setReg_agree (h : AgreeOutside w s t) {i : Reg} (hi : w (.reg i)) (v : Word) :
    AgreeOutside w s (t.setReg i v) := by
  refine h.trans fun p hp => ?_
  cases p with
  | reg k => exact reg_setReg_other t i k v fun hk => hp (hk ▸ hi)
  | _ => simp [Part.Same]

theorem setPc_agree (h : AgreeOutside w s t) (hpc : w .pc) (a : Word) :
    AgreeOutside w s (t.setPc a) := by
  refine h.trans fun p hp => ?_
  cases p with
  | pc => exact absurd hpc hp
  | _ => simp [Part.Same]

theorem setSr_agree (h : AgreeOutside w s t) (hflags : w .flags) (sr : StatusRegister) :
    AgreeOutside w s (t.setSr sr) := by
  refine h.trans fun p hp => ?_
  cases p with
  | flags => exact absurd hflags hp
  | _ => simp [Part.Same]

theorem setRun_agree (h : AgreeOutside w s t) (hrun : w .run) (r : RunState) :
    AgreeOutside w s (t.setRun r) := by
  refine h.trans fun p hp => ?_
  cases p with
  | run => exact absurd hrun hp
  | _ => simp [Part.Same]

theorem spendDraws_agree (h : AgreeOutside w s t) (hdraws : w .draws) (n : Nat) :
    AgreeOutside w s (t.spendDraws n) := by
  refine h.trans fun p hp => ?_
  cases p with
  | draws => exact absurd hdraws hp
  | _ => simp [Part.Same]

theorem setInput_agree (h : AgreeOutside w s t) {d : InputDevice} (hd : w (.input d))
    (ws : InputSequence) : AgreeOutside w s (t.setInput d ws) := by
  refine h.trans fun p hp => ?_
  cases p with
  | input e => exact setInput_input_other t d e ws fun he => hp (he ▸ hd)
  | _ => simp [Part.Same]

theorem putOutput_agree (h : AgreeOutside w s t) {d : OutputDevice} (hd : w (.output d))
    (v : Word) : AgreeOutside w s (t.putOutput d v) := by
  refine h.trans fun p hp => ?_
  cases p with
  | output e => exact putOutput_output_other t d e v fun he => hp (he ▸ hd)
  | _ => simp [Part.Same]

/-- A store changes memory alone. -/
theorem setWord_agree (h : AgreeOutside w s t) (a : Nat) (v : Word) :
    AgreeOutside w s (t.setWord a v) := by
  refine h.trans fun p _ => ?_
  cases p <;> simp [Part.Same]

/-! ### Shared operations -/

theorem memWrite_agree (h : AgreeOutside w s t) {a v : Word} (hw : t.memWrite a v = .ok u) :
    AgreeOutside w s u := by
  obtain ⟨-, rfl⟩ := (memWrite_eq_ok t u a v).mp hw
  exact setWord_agree h _ v

theorem pushFrom_agree (h : AgreeOutside w s t) {j : Reg} (hj : w (.reg j)) {v : State → Word}
    (hp : t.pushFrom j v = .ok u) : AgreeOutside w s u := by
  obtain ⟨-, rfl⟩ := (pushFrom_eq_ok t u j v).mp hp
  exact setWord_agree (setReg_agree h hj _) _ _

theorem popInto_agree (h : AgreeOutside w s t) {j k : Reg} (hj : w (.reg j)) (hk : w (.reg k))
    (hp : t.popInto j k = .ok u) : AgreeOutside w s u := by
  obtain ⟨-, rfl⟩ := (popInto_eq_ok t u j k).mp hp
  exact setReg_agree (setReg_agree h hk _) hj _

theorem pushAll_agree (h : AgreeOutside w s t) {j : Reg} (hj : w (.reg j)) {ks : List Reg}
    (hp : t.pushAll j ks = .ok u) : AgreeOutside w s u := by
  induction ks generalizing t with
  | nil => exact Except.ok.inj hp ▸ h
  | cons k ks ih =>
    obtain ⟨t', hpush, hrest⟩ := (bind_eq_ok _ _ _).mp hp
    exact ih (pushFrom_agree h hj hpush) hrest

theorem popAll_agree (h : AgreeOutside w s t) {j : Reg} (hj : w (.reg j)) {ks : List Reg}
    (hks : ∀ k ∈ ks, w (.reg k)) (hp : t.popAll j ks = .ok u) : AgreeOutside w s u := by
  induction ks generalizing t with
  | nil => exact Except.ok.inj hp ▸ h
  | cons k ks ih =>
    obtain ⟨hk, hks⟩ := List.forall_mem_cons.mp hks
    obtain ⟨t', hpop, hrest⟩ := (bind_eq_ok _ _ _).mp hp
    exact ih (popInto_agree h hj hk hpop) hks hrest

theorem takeInput_agree (h : AgreeOutside w s t) {d : InputDevice} (hd : w (.input d)) {v : Word}
    (hi : t.takeInput d = .ok (v, u)) : AgreeOutside w s u := by
  obtain ⟨rest, -, rfl⟩ := (takeInput_eq_ok t u d v).mp hi
  exact setInput_agree h hd rest

theorem scratch_agree (h : AgreeOutside w s t) (hdraws : w .draws) {top : Word}
    (hs : t.scratch top = .ok u) : AgreeOutside w s u := by
  obtain ⟨-, -, rfl⟩ := (scratch_eq_ok t u top).mp hs
  exact spendDraws_agree (setWord_agree (setWord_agree h _ _) _ _) hdraws 2

/-! ### Services -/

theorem serviceRead_agree (h : AgreeOutside w s t) {rj : Reg} (hrj : w (.reg rj))
    (hin : ∀ d, w (.input d)) {top : Word} (hs : serviceRead rj top t = .ok u) :
    AgreeOutside w s u := by
  obtain ⟨addr, -, hs⟩ := (bind_eq_ok _ _ _).mp hs
  obtain ⟨⟨v, t1⟩, hinput, hs⟩ := (bind_eq_ok _ _ _).mp hs
  obtain ⟨t2, hwrite, hs⟩ := (bind_eq_ok _ _ _).mp hs
  obtain rfl := Except.ok.inj hs
  exact setReg_agree (memWrite_agree (takeInput_agree h (hin _) hinput) hwrite) hrj _

theorem serviceWrite_agree (h : AgreeOutside w s t) {rj : Reg} (hrj : w (.reg rj))
    (hout : ∀ d, w (.output d)) {top : Word} (hs : serviceWrite rj top t = .ok u) :
    AgreeOutside w s u := by
  obtain ⟨v, -, hs⟩ := (bind_eq_ok _ _ _).mp hs
  obtain rfl := Except.ok.inj hs
  exact setReg_agree (putOutput_agree h (hout _) v) hrj _

theorem serviceClock_agree (h : AgreeOutside w s t) {rj : Reg} (hrj : w (.reg rj))
    (hdraws : w .draws) {top : Word} (hs : serviceClock rj top t = .ok u) :
    AgreeOutside w s u := by
  obtain ⟨third, -, hs⟩ := (bind_eq_ok _ _ _).mp hs
  obtain ⟨second, -, hs⟩ := (bind_eq_ok _ _ _).mp hs
  obtain ⟨first, -, hs⟩ := (bind_eq_ok _ _ _).mp hs
  obtain ⟨t1, hfirst, hs⟩ := (bind_eq_ok _ _ _).mp hs
  obtain ⟨t2, hsecond, hs⟩ := (bind_eq_ok _ _ _).mp hs
  obtain ⟨t3, hthird, hs⟩ := (bind_eq_ok _ _ _).mp hs
  obtain rfl := Except.ok.inj hs
  have h3 : AgreeOutside w s t3 :=
    memWrite_agree (memWrite_agree (memWrite_agree h hfirst) hsecond) hthird
  exact setReg_agree (spendDraws_agree h3 hdraws 3) hrj _

/-- Of the five services HALT alone needs the run state. -/
theorem runService_agree (h : AgreeOutside w s t) {rj : Reg} {top : Word} {service : Service}
    (hrj : w (.reg rj)) (hin : ∀ d, w (.input d)) (hout : ∀ d, w (.output d)) (hdraws : w .draws)
    (hrun : service = .halt → w .run) (hs : runService rj top t service = .ok u) :
    AgreeOutside w s u := by
  cases service with
  | halt => exact Except.ok.inj hs ▸ setRun_agree h (hrun rfl) .halted
  | read => exact serviceRead_agree h hrj hin hs
  | write => exact serviceWrite_agree h hrj hout hs
  | time => exact serviceClock_agree h hrj hdraws hs
  | date => exact serviceClock_agree h hrj hdraws hs

/-! ### Instructions -/

/-- An instruction agrees where its operation does, whatever the operand's value. -/
theorem withOperand_agree {op : Operand} {f : Word → Except Fault State}
    (hn : withOperand op s f = .next t) (hf : ∀ v, f v = .ok t → AgreeOutside w s t) :
    AgreeOutside w s t := by
  obtain ⟨v, -, hv⟩ := (withOperand_eq_next op s t f).mp hn
  exact hf v hv

theorem operate_agree {f : Word → Word → Except Fault Word} {rj : Reg} {op : Operand}
    (hrj : w (.reg rj)) (hn : operate f rj op s = .next t) : AgreeOutside w s t := by
  obtain ⟨-, r, -, rfl⟩ := operate_next f rj op s t hn
  exact setReg_agree (.refl w s) hrj r

theorem jumpIf_agree {taken : Bool} {op : Operand} (hpc : w .pc)
    (hn : jumpIf taken op s = .next t) : AgreeOutside w s t := by
  refine withOperand_agree hn fun v hv => ?_
  obtain rfl := Except.ok.inj hv
  cases taken with
  | true => exact setPc_agree (.refl w s) hpc v
  | false => exact .refl w s

theorem execIn_agree {rj : Reg} {op : Operand} (hrj : w (.reg rj)) (hin : ∀ d, w (.input d))
    (hn : execIn rj op s = .next t) : AgreeOutside w s t := by
  refine withOperand_agree hn fun v hv => ?_
  split at hv
  · cases hv
  · obtain ⟨⟨x, s'⟩, hinput, hv⟩ := (bind_eq_ok _ _ _).mp hv
    obtain rfl := Except.ok.inj hv
    exact setReg_agree (takeInput_agree (.refl w s) (hin _) hinput) hrj x

theorem execOut_agree {rj : Reg} {op : Operand} (hout : ∀ d, w (.output d))
    (hn : execOut rj op s = .next t) : AgreeOutside w s t := by
  refine withOperand_agree hn fun v hv => ?_
  split at hv
  · cases hv
  · exact Except.ok.inj hv ▸ putOutput_agree (.refl w s) (hout _) _

theorem execCall_agree {rj : Reg} {op : Operand} (hrj : w (.reg rj)) (hfp : w (.reg .fp))
    (hpc : w .pc) (hn : execCall rj op s = .next t) : AgreeOutside w s t := by
  refine withOperand_agree hn fun v hv => ?_
  obtain ⟨s1, hpush1, hv⟩ := (bind_eq_ok _ _ _).mp hv
  obtain ⟨s2, hpush2, hv⟩ := (bind_eq_ok _ _ _).mp hv
  obtain rfl := Except.ok.inj hv
  have h2 : AgreeOutside w s s2 :=
    pushFrom_agree (pushFrom_agree (.refl w s) hrj hpush1) hrj hpush2
  exact setReg_agree (setPc_agree h2 hpc v) hfp _

theorem execExit_agree {rj : Reg} {op : Operand} (hrj : w (.reg rj)) (hfp : w (.reg .fp))
    (hpc : w .pc) (hn : execExit rj op s = .next t) : AgreeOutside w s t := by
  refine withOperand_agree hn fun v hv => ?_
  obtain ⟨s1, hpop, hv⟩ := (bind_eq_ok _ _ _).mp hv
  obtain ⟨a, -, hv⟩ := (bind_eq_ok _ _ _).mp hv
  obtain rfl := Except.ok.inj hv
  have h1 : AgreeOutside w s s1 := popInto_agree (.refl w s) hrj hfp hpop
  exact setReg_agree (setReg_agree (setPc_agree h1 hpc a) hrj _) hrj _

/-- A supervisor call that answers: its operand named a service, the scratch words were written, and
the service ran from there (R151, R153). -/
theorem execSvc_next {rj : Reg} {op : Operand} (hn : execSvc rj op s = .next t) :
    ∃ service s1, serviceOf s.params (s.operandWord op) = some service ∧
      s.scratch (s.reg rj) = .ok s1 ∧ runService rj (s.reg rj) s1 service = .ok t := by
  obtain ⟨-, hv⟩ := (withOperand_next _ _ _ _).mp hn
  split at hv
  · cases hv
  · next service hservice =>
    obtain ⟨s1, hscratch, hrun⟩ := (bind_eq_ok _ _ _).mp hv
    exact ⟨service, s1, hservice, hscratch, hrun⟩

theorem execSvc_agree {rj : Reg} {op : Operand} (hrj : w (.reg rj)) (hin : ∀ d, w (.input d))
    (hout : ∀ d, w (.output d)) (hdraws : w .draws) (hrun : w .run)
    (hn : execSvc rj op s = .next t) : AgreeOutside w s t := by
  obtain ⟨service, s1, -, hscratch, hs⟩ := execSvc_next hn
  exact runService_agree (scratch_agree (.refl w s) hdraws hscratch) hrj hin hout hdraws
    (fun _ => hrun) hs

end Agreement

/-- An instruction that answers a next state changes, memory apart, only the parts it writes. -/
theorem exec_agree {i : Instr} {s t : State} (hn : exec i s = .next t) :
    AgreeOutside (Writes i) s t := by
  have same : AgreeOutside (Writes i) s s := .refl _ s
  cases i with
  | nop => exact withOperand_agree hn fun _ hv => Except.ok.inj hv ▸ same
  | store => exact withOperand_agree hn fun _ => memWrite_agree same
  | load =>
    exact withOperand_agree hn fun v hv =>
      Except.ok.inj hv ▸ setReg_agree same (List.mem_singleton_self _) v
  | comp =>
    exact withOperand_agree hn fun _ hv => Except.ok.inj hv ▸ setSr_agree same ⟨_, _, rfl⟩ _
  | inp => exact execIn_agree (List.mem_singleton_self _) (fun _ => .inl ⟨_, _, rfl⟩) hn
  | out => exact execOut_agree (fun _ => .inl ⟨_, _, rfl⟩) hn
  | add | sub | mul | div | mod | shl | shr | shra =>
    exact operate_agree (List.mem_singleton_self _) hn
  | and | or | xor | not =>
    simp only [exec, execAnd, execOr, execXor, execNot] at hn
    exact operate_agree (List.mem_singleton_self _) hn
  | jump | jneg | jzer | jpos | jnneg | jnzer | jnpos | jles | jequ | jgre | jnles | jnequ
  | jngre => exact jumpIf_agree rfl hn
  | call rj op =>
    have hrj : rj ∈ registersWritten (.call rj op) := by simp [registersWritten]
    have hfp : Reg.fp ∈ registersWritten (.call rj op) := by simp [registersWritten]
    exact execCall_agree hrj hfp rfl hn
  | exit rj op =>
    have hrj : rj ∈ registersWritten (.exit rj op) := by simp [registersWritten]
    have hfp : Reg.fp ∈ registersWritten (.exit rj op) := by simp [registersWritten]
    exact execExit_agree hrj hfp rfl hn
  | push =>
    exact withOperand_agree hn fun _ => pushFrom_agree same (List.mem_singleton_self _)
  | pop rj op =>
    have hrj : rj ∈ registersWritten (.pop rj op) := by simp [registersWritten]
    have hri : op.ri ∈ registersWritten (.pop rj op) := by simp [registersWritten]
    exact withOperand_agree hn fun _ => popInto_agree same hrj hri
  | pushr =>
    exact withOperand_agree hn fun _ => pushAll_agree same (List.mem_singleton_self _)
  | popr rj op =>
    have hrj : rj ∈ registersWritten (.popr rj op) := by simp [registersWritten]
    have hpopped : ∀ k ∈ [6, 5, 4, 3, 2, 1, 0], k ∈ registersWritten (.popr rj op) :=
      fun _ hk => List.mem_append_left [rj] hk
    exact withOperand_agree hn fun _ => popAll_agree same hrj hpopped
  | svc =>
    exact execSvc_agree (List.mem_singleton_self _) (fun _ => .inr ⟨_, _, rfl⟩)
      (fun _ => .inr ⟨_, _, rfl⟩) ⟨_, _, rfl⟩ ⟨_, _, rfl⟩ hn

/-! ### The frame statements: each reads off one part -/

/-- Settles O45: the registers of R13. -/
theorem frameRegisters : Obligations.FrameRegisters :=
  fun _ _ _ hexec k hk => exec_agree hexec (.reg k) hk

/-- Settles O47: only COMP writes the flags. -/
theorem frameFlags : Obligations.FrameFlags :=
  fun _ _ _ hexec hcomp => exec_agree hexec .flags fun ⟨rj, op, hi⟩ => hcomp rj op hi

/-- Settles O48: only the control transfers write `pc`. -/
theorem framePc : Obligations.FramePc :=
  fun _ _ _ hexec hstay => exec_agree hexec .pc (ne_true_of_eq_false hstay)

/-- Settles O49: the parts of the environment, one by one. -/
theorem frameEnvironment : Obligations.FrameEnvironment := by
  intro i s t hexec
  have agree := exec_agree hexec
  refine ⟨fun hinp hsvc => ?_, fun hout hsvc => ?_, fun hsvc => ?_, agree .params id⟩
  · have hread : ∀ d, ¬Writes i (.input d) := by simp [Writes, hinp, hsvc]
    exact ⟨agree (.input .kbd) (hread _), agree (.input .stdin) (hread _)⟩
  · have hwritten : ∀ d, ¬Writes i (.output d) := by simp [Writes, hout, hsvc]
    exact ⟨agree (.output .crt) (hwritten _), agree (.output .stdout) (hwritten _)⟩
  · have hservice : ¬∃ rj op, i = .svc rj op := fun ⟨rj, op, hi⟩ => hsvc rj op hi
    exact ⟨agree .run hservice, agree .draws hservice⟩

end Sys2Proof.Machine
end

section
/-! SUPPORT. The end of a run (R20, R154) and the index register R0 (R12). -/

namespace Sys2Proof.Machine

/-! ### The end of a run -/

theorem serviceOf_eq_halt (p : Params) (v : Word) : serviceOf p v = some .halt ↔ v = p.svcHalt := by
  by_cases hv : v = p.svcHalt
  · simp [serviceOf, hv]
  · rw [serviceOf, if_neg hv]
    refine iff_of_false ?_ hv
    split_ifs <;> nofun

/-- A supervisor call changes the run state only by the service HALT, and then to `Halted` (R154). -/
theorem execSvc_run {rj : Reg} {op : Operand} {s t : State} (hn : execSvc rj op s = .next t) :
    t.run = s.run ∨ (t.run = .halted ∧ s.operandWord op = s.params.svcHalt) := by
  obtain ⟨service, s1, hservice, hscratch, hs⟩ := execSvc_next hn
  by_cases hhalt : service = .halt
  · subst hhalt
    obtain rfl := Except.ok.inj hs
    exact .inr ⟨rfl, (serviceOf_eq_halt _ _).mp hservice⟩
  · have agree : AgreeOutside (· ≠ .run) s t :=
      runService_agree (scratch_agree (.refl _ s) nofun hscratch) nofun nofun nofun nofun
        (fun h => absurd h hhalt) hs
    exact .inl (agree .run (not_not_intro rfl))

/-- Settles O7: a step that answers is a step of a running machine. -/
theorem noStepAfterTheEnd : Obligations.NoStepAfterTheEnd := by
  intro s t hend hstep
  obtain ⟨hrun, -⟩ := (step_eq_next s t).mp hstep
  exact hend hrun

/-- Settles O53: an instruction other than SVC keeps the run state by its frame, and SVC changes it
by HALT alone. -/
theorem haltedOnlyByHalt : Obligations.HaltedOnlyByHalt := by
  intro s t hrun hstep hstopped
  obtain ⟨-, w, i, hfetch, hdecode, hexec⟩ := (step_eq_next s t).mp hstep
  obtain ⟨-, rfl⟩ := (memRead_eq_ok s s.pc w).mp hfetch
  have hchanged : t.run ≠ s.advancePc.run := fun h => hstopped (h.trans hrun)
  have hsvc : Writes i .run := by
    by_contra hother
    exact hchanged (exec_agree hexec .run hother)
  obtain ⟨rj, op, rfl⟩ := hsvc
  obtain ⟨hhalted, hoperand⟩ := (execSvc_run hexec).resolve_left hchanged
  exact ⟨hhalted, rj, op, hdecode, hoperand⟩

/-! ### The index register -/

@[simp] theorem index_zero (s : State) : s.index 0 = 0 := if_pos rfl

theorem index_of_ne_zero (s : State) {i : Reg} (hi : i ≠ 0) : s.index i = s.reg i := if_neg hi

/-- Settles O12: R0 counts as zero in the address sum alone; another register is added. -/
theorem indexRegisterZero : Obligations.IndexRegisterZero := by
  intro s v m addr
  refine ⟨?_, reg_setReg_same s 0 v, fun i hi => ?_⟩
  · simp [State.indexedAddress]
  · rw [State.indexedAddress, index_of_ne_zero s hi]

end Sys2Proof.Machine
end

section
/-! SUPPORT. Memory: which words an instruction may change (R35, R37), and that a fetch is a read
like any other (R39). -/

namespace Sys2Proof.Machine

/-! ### A stored word is fetched -/

/-- STORE with a readable operand that is a valid address stores Rj there (R82). -/
theorem exec_store_valid {s : State} {rj : Reg} {op : Operand} (hop : s.OperandReadable op)
    (ha : s.ValidAddress (s.operandWord op)) :
    exec (.store rj op) s = .next (s.setWord (s.operandWord op).toNat (s.reg rj)) :=
  (withOperand_next _ _ _ _).mpr ⟨hop, memWrite_valid s _ _ ha⟩

/-- The word stored where `pc` points is the word fetched. -/
theorem fetch_setWord_pc {s : State} (hpc : s.ValidAddress s.pc) (v : Word) :
    (s.setWord s.pc.toNat v).fetch = .ok v :=
  (memRead_eq_ok _ _ _).mpr ⟨hpc, (word_setWord_same s s.pc.toNat v).symm⟩

/-- Settles O8: the step is the STORE run from the advanced `pc`, which is the address it stores
to. -/
theorem fetchSeesTheStore : Obligations.FetchSeesTheStore := by
  intro s rj op hrun hpc hdecode hop hnext hvalid
  have hfetch : s.fetch = .ok (s.word s.pc.toNat) := memRead_valid s s.pc hpc
  have hstore := exec_store_valid (rj := rj) hop (hnext ▸ hvalid)
  rw [hnext] at hstore
  exact ⟨_, (step_eq_next s _).mpr ⟨hrun, _, _, hfetch, hdecode, hstore⟩, hrun,
    fetch_setWord_pc (s := s.setPc (s.pc + 1)) hvalid _⟩

/-! ### Agreement of two memories -/

/-- Two states hold the same word at every address outside a list. -/
def WordsAgreeOutside (as : List Word) (s t : State) : Prop :=
  ∀ a : Nat, (∀ w ∈ as, a ≠ w.toNat) → t.word a = s.word a

section Agreement

variable {as : List Word} {s t u : State}

theorem WordsAgreeOutside.of_mem_eq (h : t.mem = s.mem) : WordsAgreeOutside as s t :=
  fun a _ => congrArg (Memory.word · a) h

theorem WordsAgreeOutside.trans (h : WordsAgreeOutside as s t) (h' : WordsAgreeOutside as t u) :
    WordsAgreeOutside as s u :=
  fun a ha => (h' a ha).trans (h a ha)

theorem setWord_words {a : Word} (ha : a ∈ as) (v : Word) :
    WordsAgreeOutside as s (s.setWord a.toNat v) :=
  fun b hb => word_setWord_other s a.toNat b v (hb a ha)

/-! ### Operations that store -/

theorem memWrite_words {a v : Word} (ha : a ∈ as) (hw : s.memWrite a v = .ok t) :
    WordsAgreeOutside as s t := by
  obtain ⟨-, rfl⟩ := (memWrite_eq_ok s t a v).mp hw
  exact setWord_words ha v

/-- A push stores one word, the new top cell. -/
theorem pushFrom_words {j : Reg} {v : State → Word} (ha : s.reg j + 1 ∈ as)
    (hp : s.pushFrom j v = .ok t) : WordsAgreeOutside as s t := by
  obtain ⟨-, rfl⟩ := (pushFrom_eq_ok s t j v).mp hp
  exact setWord_words (s := s.growStack j) ha _

theorem pushFrom_reg {j : Reg} {v : State → Word} (hp : s.pushFrom j v = .ok t) :
    t.reg j = s.reg j + 1 := by
  obtain ⟨-, rfl⟩ := (pushFrom_eq_ok s t j v).mp hp
  simp [growStack_def]

/-- A row of pushes stores as many words as there are registers, from the first cell above the old
top upward. -/
theorem pushAll_words {j : Reg} {ks : List Reg}
    (has : ∀ n < ks.length, s.reg j + BitVec.ofNat 32 (n + 1) ∈ as)
    (hp : s.pushAll j ks = .ok t) : WordsAgreeOutside as s t := by
  induction ks generalizing s with
  | nil => exact .of_mem_eq (congrArg State.mem (Except.ok.inj hp).symm)
  | cons k ks ih =>
    obtain ⟨s', hpush, hrest⟩ := (bind_eq_ok _ _ _).mp hp
    refine (pushFrom_words (has 0 (Nat.succ_pos _)) hpush).trans (ih (fun n hn => ?_) hrest)
    have hcell : s'.reg j + BitVec.ofNat 32 (n + 1) = s.reg j + BitVec.ofNat 32 (n + 1 + 1) := by
      rw [pushFrom_reg hpush]
      bv_omega
    exact hcell ▸ has (n + 1) (Nat.succ_lt_succ hn)

theorem scratch_words {top : Word} (h1 : top + 1 ∈ as) (h2 : top + 2 ∈ as)
    (hs : s.scratch top = .ok t) : WordsAgreeOutside as s t := by
  obtain ⟨-, -, rfl⟩ := (scratch_eq_ok s t top).mp hs
  exact (setWord_words h1 (s.drawn 0)).trans (setWord_words h2 (s.drawn 1))

/-- The scratch words lie above the parameters of a service, so where it stores its results is the
same before and after they are written (R152, R153). -/
theorem scratch_serviceResults {top : Word} (hs : s.scratch top = .ok t)
    (service : Option Service) :
    t.serviceResults top service = s.serviceResults top service := by
  have hagree : WordsAgreeOutside [top + 1, top + 2] s t := scratch_words (by simp) (by simp) hs
  have hword (a : Nat) (h1 : a ≠ (top + 1).toNat) (h2 : a ≠ (top + 2).toNat) :
      t.word a = s.word a := hagree a (by simpa using ⟨h1, h2⟩)
  have h0 : t.word top.toNat = s.word top.toNat := hword _ (by bv_omega) (by bv_omega)
  have h1 : t.word (top - 1).toNat = s.word (top - 1).toNat := hword _ (by bv_omega) (by bv_omega)
  have h2 : t.word (top - 2).toNat = s.word (top - 2).toNat := hword _ (by bv_omega) (by bv_omega)
  unfold State.serviceResults
  rw [h0, h1, h2]

/-! ### Services -/

/-- READ stores at the address its parameter holds (R155). -/
theorem serviceRead_words {rj : Reg} {top : Word} (ha : s.word top.toNat ∈ as)
    (hs : serviceRead rj top s = .ok t) : WordsAgreeOutside as s t := by
  obtain ⟨addr, haddr, hs⟩ := (bind_eq_ok _ _ _).mp hs
  obtain ⟨⟨v, s1⟩, hinput, hs⟩ := (bind_eq_ok _ _ _).mp hs
  obtain ⟨s2, hwrite, hs⟩ := (bind_eq_ok _ _ _).mp hs
  obtain rfl := Except.ok.inj hs
  obtain ⟨-, rfl⟩ := (memRead_eq_ok _ _ _).mp haddr
  obtain ⟨rest, -, rfl⟩ := (takeInput_eq_ok _ _ _ _).mp hinput
  have hsame : WordsAgreeOutside as s (s.setInput .kbd rest) := .of_mem_eq (setInput_mem s _ _)
  exact (hsame.trans (memWrite_words ha hwrite)).trans (.of_mem_eq rfl)

theorem serviceWrite_mem {rj : Reg} {top : Word} (hs : serviceWrite rj top s = .ok t) :
    t.mem = s.mem := by
  obtain ⟨v, -, hs⟩ := (bind_eq_ok _ _ _).mp hs
  exact Except.ok.inj hs ▸ rfl

/-- TIME and DATE store at the three addresses their parameters hold, all read before the first
store (R156, R157). -/
theorem serviceClock_words {rj : Reg} {top : Word} (h1 : s.word (top - 2).toNat ∈ as)
    (h2 : s.word (top - 1).toNat ∈ as) (h3 : s.word top.toNat ∈ as)
    (hs : serviceClock rj top s = .ok t) : WordsAgreeOutside as s t := by
  obtain ⟨third, hread3, hs⟩ := (bind_eq_ok _ _ _).mp hs
  obtain ⟨second, hread2, hs⟩ := (bind_eq_ok _ _ _).mp hs
  obtain ⟨first, hread1, hs⟩ := (bind_eq_ok _ _ _).mp hs
  obtain ⟨s1, hfirst, hs⟩ := (bind_eq_ok _ _ _).mp hs
  obtain ⟨s2, hsecond, hs⟩ := (bind_eq_ok _ _ _).mp hs
  obtain ⟨s3, hthird, hs⟩ := (bind_eq_ok _ _ _).mp hs
  obtain rfl := Except.ok.inj hs
  obtain ⟨-, rfl⟩ := (memRead_eq_ok _ _ _).mp hread3
  obtain ⟨-, rfl⟩ := (memRead_eq_ok _ _ _).mp hread2
  obtain ⟨-, rfl⟩ := (memRead_eq_ok _ _ _).mp hread1
  have hstored : WordsAgreeOutside as s s3 :=
    ((memWrite_words h1 hfirst).trans (memWrite_words h2 hsecond)).trans (memWrite_words h3 hthird)
  exact hstored.trans (.of_mem_eq rfl)

/-- A service stores to its result addresses alone. -/
theorem runService_words {rj : Reg} {top : Word} {service : Service}
    (has : ∀ w ∈ s.serviceResults top (some service), w ∈ as)
    (hs : runService rj top s service = .ok t) : WordsAgreeOutside as s t := by
  cases service with
  | halt => exact .of_mem_eq (Except.ok.inj hs ▸ rfl)
  | write => exact .of_mem_eq (serviceWrite_mem hs)
  | read => exact serviceRead_words (has _ (List.mem_singleton_self _)) hs
  | time | date =>
    obtain ⟨h1, h2, h3⟩ : s.word (top - 2).toNat ∈ as ∧ s.word (top - 1).toNat ∈ as ∧
        s.word top.toNat ∈ as := by simpa [State.serviceResults] using has
    exact serviceClock_words h1 h2 h3 hs

/-! ### Operations that store nothing -/

theorem popInto_mem {j k : Reg} (hp : s.popInto j k = .ok t) : t.mem = s.mem := by
  obtain ⟨-, rfl⟩ := (popInto_eq_ok s t j k).mp hp
  rfl

theorem popAll_mem {j : Reg} {ks : List Reg} (hp : s.popAll j ks = .ok t) : t.mem = s.mem := by
  induction ks generalizing s with
  | nil => exact Except.ok.inj hp ▸ rfl
  | cons k ks ih =>
    obtain ⟨s', hpop, hrest⟩ := (bind_eq_ok _ _ _).mp hp
    exact (ih hrest).trans (popInto_mem hpop)

theorem operate_mem {f : Word → Word → Except Fault Word} {rj : Reg} {op : Operand}
    (hn : operate f rj op s = .next t) : t.mem = s.mem := by
  obtain ⟨-, r, -, rfl⟩ := operate_next f rj op s t hn
  rfl

theorem jumpIf_mem {taken : Bool} {op : Operand} (hn : jumpIf taken op s = .next t) :
    t.mem = s.mem := by
  obtain ⟨-, hv⟩ := (withOperand_next _ _ _ _).mp hn
  obtain rfl := Except.ok.inj hv
  cases taken <;> rfl

theorem execIn_mem {rj : Reg} {op : Operand} (hn : execIn rj op s = .next t) :
    t.mem = s.mem := by
  obtain ⟨-, hv⟩ := (withOperand_next _ _ _ _).mp hn
  split at hv
  · cases hv
  · obtain ⟨⟨v, s'⟩, hinput, hv⟩ := (bind_eq_ok _ _ _).mp hv
    obtain ⟨rest, -, rfl⟩ := (takeInput_eq_ok _ _ _ _).mp hinput
    obtain rfl := Except.ok.inj hv
    exact setInput_mem s _ rest

theorem execOut_mem {rj : Reg} {op : Operand} (hn : execOut rj op s = .next t) :
    t.mem = s.mem := by
  obtain ⟨-, hv⟩ := (withOperand_next _ _ _ _).mp hn
  split at hv
  · cases hv
  · exact Except.ok.inj hv ▸ putOutput_mem s _ _

theorem execExit_mem {rj : Reg} {op : Operand} (hn : execExit rj op s = .next t) :
    t.mem = s.mem := by
  obtain ⟨-, hv⟩ := (withOperand_next _ _ _ _).mp hn
  obtain ⟨s1, hpop, hv⟩ := (bind_eq_ok _ _ _).mp hv
  obtain ⟨a, -, hv⟩ := (bind_eq_ok _ _ _).mp hv
  obtain rfl := Except.ok.inj hv
  exact (popInto_mem hpop : s1.mem = s.mem)

/-! ### Instructions that store -/

theorem execStore_words {rj : Reg} {op : Operand} (hn : execStore rj op s = .next t) :
    WordsAgreeOutside [s.operandWord op] s t := by
  obtain ⟨-, hv⟩ := (withOperand_next _ _ _ _).mp hn
  exact memWrite_words (List.mem_singleton_self _) hv

theorem execPush_words {rj : Reg} {op : Operand} (hn : execPush rj op s = .next t) :
    WordsAgreeOutside [s.reg rj + 1] s t := by
  obtain ⟨-, hv⟩ := (withOperand_next _ _ _ _).mp hn
  exact pushFrom_words (List.mem_singleton_self _) hv

theorem execPushr_words {rj : Reg} {op : Operand} (hn : execPushr rj op s = .next t) :
    WordsAgreeOutside ((List.range 7).map fun n => s.reg rj + BitVec.ofNat 32 (n + 1)) s t := by
  obtain ⟨-, hv⟩ := (withOperand_next _ _ _ _).mp hn
  refine pushAll_words (fun n hlt => ?_) hv
  exact List.mem_map.mpr ⟨n, List.mem_range.mpr hlt, rfl⟩

theorem execCall_words {rj : Reg} {op : Operand} (hn : execCall rj op s = .next t) :
    WordsAgreeOutside [s.reg rj + 1, s.reg rj + 2] s t := by
  obtain ⟨-, hv⟩ := (withOperand_next _ _ _ _).mp hn
  obtain ⟨s1, hreturn, hv⟩ := (bind_eq_ok _ _ _).mp hv
  obtain ⟨s2, hfp, hv⟩ := (bind_eq_ok _ _ _).mp hv
  obtain rfl := Except.ok.inj hv
  have hsecond : s1.reg rj + 1 = s.reg rj + 2 := by
    rw [pushFrom_reg hreturn]
    bv_omega
  have hpushed : WordsAgreeOutside [s.reg rj + 1, s.reg rj + 2] s s2 :=
    (pushFrom_words (List.mem_cons_self ..) hreturn).trans
      (pushFrom_words (hsecond ▸ by simp) hfp)
  exact hpushed.trans (.of_mem_eq rfl)

/-- A supervisor call stores the scratch words and the results of its service, at the addresses its
parameters held before the call (R153 to R157). -/
theorem execSvc_words {rj : Reg} {op : Operand} (hn : execSvc rj op s = .next t) :
    WordsAgreeOutside (s.storedAddresses (.svc rj op)) s t := by
  obtain ⟨service, s1, hservice, hscratch, hrun⟩ := execSvc_next hn
  refine (scratch_words ?_ ?_ hscratch).trans (runService_words (fun w hw => ?_) hrun)
  · simp [State.storedAddresses]
  · simp [State.storedAddresses]
  · rw [scratch_serviceResults hscratch] at hw
    simp [State.storedAddresses, hservice, hw]

end Agreement

/-- An instruction that answers a next state changes no word of memory but those it stores to. -/
theorem exec_words {i : Instr} {s t : State} (hn : exec i s = .next t) :
    WordsAgreeOutside (s.storedAddresses i) s t := by
  cases i with
  | store => exact execStore_words hn
  | push => exact execPush_words hn
  | pushr => exact execPushr_words hn
  | call => exact execCall_words hn
  | svc => exact execSvc_words hn
  | nop | load | comp =>
    obtain ⟨-, hv⟩ := (withOperand_next _ _ _ _).mp hn
    obtain rfl := Except.ok.inj hv
    exact .of_mem_eq rfl
  | inp => exact .of_mem_eq (execIn_mem hn)
  | out => exact .of_mem_eq (execOut_mem hn)
  | add | sub | mul | div | mod | shl | shr | shra => exact .of_mem_eq (operate_mem hn)
  | and | or | xor | not =>
    simp only [exec, execAnd, execOr, execXor, execNot] at hn
    exact .of_mem_eq (operate_mem hn)
  | jump | jneg | jzer | jpos | jnneg | jnzer | jnpos | jles | jequ | jgre | jnles | jnequ
  | jngre => exact .of_mem_eq (jumpIf_mem hn)
  | exit => exact .of_mem_eq (execExit_mem hn)
  | pop =>
    obtain ⟨-, hv⟩ := (withOperand_next _ _ _ _).mp hn
    exact .of_mem_eq (popInto_mem hv)
  | popr =>
    obtain ⟨-, hv⟩ := (withOperand_next _ _ _ _).mp hn
    exact .of_mem_eq (popAll_mem hv)

/-- Settles O46: the words an instruction stores to, one instruction at a time. -/
theorem frameMemory : Obligations.FrameMemory :=
  fun _ _ _ hexec => exec_words hexec

end Sys2Proof.Machine
end

section
/-! SUPPORT. The encoder and the decoder are inverse (R50, R51, R56, R57): each table undoes the
other, and each field of an instruction's word is the field of the instruction. -/

namespace Sys2Proof

/-! ### The tables of operations and modes -/

/-- The opcode of an instruction selects the operation it is made of (R56). -/
theorem operationOf_opcode (i : Instr) :
    ∃ build, operationOf i.opcode = some build ∧ build i.rj i.operand = i := by
  cases i <;> exact ⟨_, rfl, rfl⟩

/-- The operation an opcode selects makes instructions of that opcode, with the fields given. -/
theorem fields_of_operationOf {n : Nat} {build : Reg → Operand → Instr}
    (h : operationOf n = some build) (rj : Reg) (op : Operand) :
    (build rj op).opcode = n ∧ (build rj op).rj = rj ∧ (build rj op).operand = op := by
  unfold operationOf at h
  split at h <;> cases h <;> exact ⟨rfl, rfl, rfl⟩

/-- A value of the field M selects a mode exactly where it is that mode's code (R52). -/
theorem modeOf_eq_some (n : Nat) (m : Mode) : modeOf n = some m ↔ n = m.code := by
  constructor
  · intro h
    unfold modeOf at h
    split at h <;> cases h <;> rfl
  · rintro rfl
    cases m <;> rfl

/-! ### The constant ADDR -/

/-- A constant in range is the signed reading of its own pattern (R51). -/
theorem toInt_ofInt_of_addrInRange {addr : Int} (h : addrInRange addr) :
    (BitVec.ofInt 16 addr).toInt = addr := by
  obtain ⟨hlow, hhigh⟩ := h
  rw [BitVec.toInt_ofInt]
  exact Int.bmod_eq_of_le (by norm_num; omega) (by norm_num; omega)

/-- The field ADDR holds only constants in range. -/
theorem addrField_inRange (w : Word) : addrInRange (addrField w) := by
  unfold addrField
  generalize w.extractLsb' 0 16 = half
  have hlow := BitVec.le_toInt half
  have hhigh := BitVec.toInt_lt (x := half)
  norm_num at hlow hhigh
  constructor <;> omega

/-- The pattern of the constant read from a word is the low half of that word. -/
theorem addrPattern_addrField (w : Word) : addrPattern (addrField w) = w.toNat % 65536 := by
  unfold addrPattern addrField
  rw [BitVec.ofInt_toInt, extract_toNat]
  norm_num

/-! ### The fields of an instruction's word -/

section Fields
variable (i : Instr)

theorem rjField_encode : rjField (encode i) = i.rj := by
  have hmode := i.operand.mode.code_lt
  have hri := i.operand.ri.isLt
  have haddr := addrPattern_lt i.operand.addr
  apply Fin.ext
  rw [rjField_eq, encode_toNat]
  omega

theorem modeField_encode : modeField (encode i) = i.operand.mode.code := by
  have hmode := i.operand.mode.code_lt
  have hri := i.operand.ri.isLt
  have haddr := addrPattern_lt i.operand.addr
  rw [modeField_eq, encode_toNat]
  omega

theorem riField_encode : riField (encode i) = i.operand.ri := by
  have haddr := addrPattern_lt i.operand.addr
  apply Fin.ext
  rw [riField_eq, encode_toNat]
  omega

theorem addrField_encode (h : i.WellFormed) : addrField (encode i) = i.operand.addr := by
  have haddr := addrPattern_lt i.operand.addr
  have hlow : (encode i).toNat % 65536 = addrPattern i.operand.addr := by
    rw [encode_toNat]
    omega
  rw [addrField_eq, hlow, addrPattern, BitVec.ofNat_toNat, BitVec.setWidth_eq]
  exact toInt_ofInt_of_addrInRange h

end Fields

/-! ### The two round trips -/

/-- Settles O1: every field read from the instruction's word is the instruction's own. -/
theorem decodeEncode : Obligations.DecodeEncode := by
  intro i hwf
  obtain ⟨build, hbuild, hi⟩ := operationOf_opcode i
  refine (decode_eq_ok _ _).mpr ⟨build, i.operand.mode, ?_, ?_, ?_⟩
  · exact (Laws.EncodedOpcode.of_any i).symm ▸ hbuild
  · exact (modeOf_eq_some _ _).mpr (modeField_encode i)
  · rw [rjField_encode, riField_encode, addrField_encode i hwf]
    exact hi.symm

/-- Settles O2: the five fields of a word, put side by side again, are that word. -/
theorem encodeDecode : Obligations.EncodeDecode := by
  intro w i hdecode
  obtain ⟨build, mode, hbuild, hmode, rfl⟩ := (decode_eq_ok w i).mp hdecode
  obtain ⟨hopcode, hrj, hop⟩ :=
    fields_of_operationOf hbuild (rjField w) ⟨mode, riField w, addrField w⟩
  have hcode : modeField w = mode.code := (modeOf_eq_some _ _).mp hmode
  refine ⟨?_, BitVec.eq_of_toNat_eq ?_⟩
  · rw [Instr.WellFormed, hop]
    exact addrField_inRange w
  · rw [encode_toNat, hopcode, hrj, hop, ← hcode, addrPattern_addrField, opcodeField_eq,
      rjField_eq, modeField_eq, riField_eq]
    have hw : w.toNat < 4294967296 := w.isLt
    omega

end Sys2Proof
end

section
/-! SUPPORT. Fetch, decode and operand (R53 to R55, R58): what a running step answers at each stage,
which words are no instruction, and that every instruction is its operation behind its operand. -/

namespace Sys2Proof.Machine

/-! ### The stages of a running step -/

section Step
variable {s : State} (hrun : s.run = .running)
include hrun

/-- A fault of the fetch is the fault of the step. -/
theorem step_of_fetch_error {f : Fault} (hfetch : s.fetch = .error f) : step s = .fault f := by
  simp only [step, hrun, hfetch, raise]

/-- A fetched word that is no instruction is IllegalInstruction with that word. -/
theorem step_of_decode_error {w : Word} {e : DecodeError} (hfetch : s.fetch = .ok w)
    (hdecode : decode w = .error e) : step s = .fault (.illegalInstruction w) := by
  simp only [step, hrun, hfetch, hdecode, raise]

/-- A fetched word that is an instruction is run from the advanced `pc`. -/
theorem step_of_decode_ok {w : Word} {i : Instr} (hfetch : s.fetch = .ok w)
    (hdecode : decode w = .ok i) : step s = exec i s.advancePc := by
  simp only [step, hrun, hfetch, hdecode]

end Step

/-- Settles O5: the fetch at a valid `pc` gives the word there, and its instruction runs. -/
theorem stepRunsDecoded : Obligations.StepRunsDecoded :=
  fun s _ hrun hpc hdecode => step_of_decode_ok hrun (memRead_valid s s.pc hpc) hdecode

/-- Settles O6: the fetch is the read that faults. -/
theorem fetchOutsideMemoryFaults : Obligations.FetchOutsideMemoryFaults :=
  fun s hrun hpc => step_of_fetch_error hrun (memRead_invalid s s.pc hpc)

/-! ### The second operand -/

/-- `TA` does not depend on the mode, and R0 counts as zero in it (R12, R54). -/
theorem indexedAddress_eq (s : State) (m : Mode) (ri : Reg) (addr : Int) :
    s.indexedAddress ⟨m, ri, addr⟩ =
      wrap32 (addr + (if ri = 0 then 0 else (s.reg ri).toInt)) := by
  by_cases hri : ri = 0
  · subst hri
    simp [State.indexedAddress]
  · simp [State.indexedAddress, index_of_ne_zero s hri, hri]

section Modes
variable (s : State) {op : Operand}

theorem operandValue_immediate (hm : op.mode = .immediate) :
    s.operandValue op = .ok (s.indexedAddress op) := by
  simp only [State.operandValue, hm]

theorem operandValue_direct (hm : op.mode = .direct) :
    s.operandValue op = s.memRead (s.indexedAddress op) := by
  simp only [State.operandValue, hm]

/-- In mode 2 a valid TA leads to a second read, at the address held there (R54). -/
theorem operandValue_indirect_valid (hm : op.mode = .indirect)
    (hta : s.ValidAddress (s.indexedAddress op)) :
    s.operandValue op = s.memRead (s.word (s.indexedAddress op).toNat) := by
  simp only [State.operandValue, hm, memRead_valid s _ hta, bind_ok]

/-- In mode 2 an invalid TA is the fault of the first read (R54). -/
theorem operandValue_indirect_invalid (hm : op.mode = .indirect)
    (hta : ¬s.ValidAddress (s.indexedAddress op)) :
    s.operandValue op = .error (.addressOutOfBounds (s.indexedAddress op)) := by
  simp only [State.operandValue, hm, memRead_invalid s _ hta, bind_error]

end Modes

/-- Settles O10: each mode's reads, at `TA` and at the address held there. -/
theorem operandEvaluation : Obligations.OperandEvaluation := by
  intro s ri addr ta hta
  have hta (m : Mode) : s.indexedAddress ⟨m, ri, addr⟩ = ta :=
    (indexedAddress_eq s m ri addr).trans hta.symm
  have hdirect : s.operandValue ⟨.direct, ri, addr⟩ = s.memRead ta :=
    hta .direct ▸ operandValue_direct s rfl
  have hindirect (hvalid : s.ValidAddress ta) :
      s.operandValue ⟨.indirect, ri, addr⟩ = s.memRead (s.word ta.toNat) := by
    rw [operandValue_indirect_valid s rfl ((hta .indirect).symm ▸ hvalid), hta]
  refine ⟨?_, fun hvalid => ?_, fun hinvalid => ⟨?_, ?_⟩, fun hvalid hheld => ?_,
    fun hvalid hheld => ?_⟩
  · rw [operandValue_immediate s rfl, hta]
  · rw [hdirect, memRead_valid s ta hvalid]
  · rw [hdirect, memRead_invalid s ta hinvalid]
  · rw [operandValue_indirect_invalid s rfl ((hta .indirect).symm ▸ hinvalid), hta]
  · rw [hindirect hvalid, memRead_valid s _ hheld]
  · rw [hindirect hvalid, memRead_invalid s _ hheld]

/-- An operand that cannot be read faults at `TA`, or at the address held at a valid `TA`. -/
theorem operandValue_unreadable (s : State) (op : Operand) (h : ¬s.OperandReadable op) :
    ∃ a : Word, ¬s.ValidAddress a ∧ s.operandValue op = .error (.addressOutOfBounds a) ∧
      (a = s.indexedAddress op ∨
        (op.mode = .indirect ∧ s.ValidAddress (s.indexedAddress op) ∧
          a = s.word (s.indexedAddress op).toNat)) := by
  by_cases hta : s.ValidAddress (s.indexedAddress op)
  · have hmode : op.mode = .indirect := by
      by_contra hm
      exact h ⟨fun _ => hta, fun hm' => absurd hm' hm⟩
    have hheld : ¬s.ValidAddress (s.word (s.indexedAddress op).toNat) :=
      fun hheld => h ⟨fun _ => hta, fun _ => hheld⟩
    refine ⟨_, hheld, ?_, .inr ⟨hmode, hta, rfl⟩⟩
    rw [operandValue_indirect_valid s hmode hta, memRead_invalid s _ hheld]
  · refine ⟨_, hta, ?_, .inl rfl⟩
    cases hm : op.mode with
    | immediate => exact absurd ⟨fun c => absurd hm c, fun c => by simp [hm] at c⟩ h
    | direct => rw [operandValue_direct s hm, memRead_invalid s _ hta]
    | indirect => exact operandValue_indirect_invalid s hm hta

/-- A fault of the operand is the instruction's fault, before the operation (R185). -/
theorem withOperand_error {op : Operand} {s : State} {f : Fault} (h : s.operandValue op = .error f)
    (operation : Word → Except Fault State) : withOperand op s operation = .fault f := by
  rw [withOperand, h, bind_error, complete_error]

/-! ### IllegalInstruction is a fault of the decoder alone (R55, R184) -/

/-- A computation of an instruction that raises no IllegalInstruction. -/
def NeverIllegal {α : Type} (e : Except Fault α) : Prop := ∀ x, e ≠ .error (.illegalInstruction x)

section NeverIllegal
variable {α β : Type} (s : State)

theorem NeverIllegal.ok (a : α) : NeverIllegal (.ok a : Except Fault α) := nofun

theorem NeverIllegal.bind {e : Except Fault α} {f : α → Except Fault β} (he : NeverIllegal e)
    (hf : ∀ a, NeverIllegal (f a)) : NeverIllegal (e >>= f) := by
  cases e with
  | ok a => exact hf a
  | error r => exact fun x h => he x (congrArg Except.error (Except.error.inj h))

/-- A check that passes, or raises another fault. -/
theorem NeverIllegal.ite {p : Prop} [Decidable p] {e e' : Except Fault α} (he : NeverIllegal e)
    (he' : NeverIllegal e') : NeverIllegal (if p then e else e') := by
  split
  · exact he
  · exact he'

theorem memRead_neverIllegal (a : Word) : NeverIllegal (s.memRead a) := .ite (.ok _) nofun

theorem memWrite_neverIllegal (a v : Word) : NeverIllegal (s.memWrite a v) := .ite (.ok _) nofun

theorem operandValue_neverIllegal (op : Operand) : NeverIllegal (s.operandValue op) := by
  unfold State.operandValue
  split
  · exact .ok _
  · exact memRead_neverIllegal s _
  · exact (memRead_neverIllegal s _).bind fun t => memRead_neverIllegal s t

theorem pushFrom_neverIllegal (j : Reg) (v : State → Word) : NeverIllegal (s.pushFrom j v) :=
  memWrite_neverIllegal _ _ _

theorem popInto_neverIllegal (j k : Reg) : NeverIllegal (s.popInto j k) :=
  (memRead_neverIllegal s _).bind fun _ => .ok _

theorem pushAll_neverIllegal (j : Reg) (ks : List Reg) : NeverIllegal (s.pushAll j ks) := by
  induction ks generalizing s with
  | nil => exact .ok s
  | cons k ks ih => exact (pushFrom_neverIllegal s j _).bind fun s' => ih s'

theorem popAll_neverIllegal (j : Reg) (ks : List Reg) : NeverIllegal (s.popAll j ks) := by
  induction ks generalizing s with
  | nil => exact .ok s
  | cons k ks ih => exact (popInto_neverIllegal s j k).bind fun s' => ih s'

theorem takeInput_neverIllegal (d : InputDevice) : NeverIllegal (s.takeInput d) := by
  unfold State.takeInput
  split
  · exact nofun
  · exact .ok _

theorem scratch_neverIllegal (top : Word) : NeverIllegal (s.scratch top) :=
  (memWrite_neverIllegal s _ _).bind fun s1 =>
    (memWrite_neverIllegal s1 _ _).bind fun _ => .ok _

theorem serviceRead_neverIllegal (rj : Reg) (top : Word) :
    NeverIllegal (serviceRead rj top s) :=
  (memRead_neverIllegal s _).bind fun _ => (takeInput_neverIllegal s _).bind fun (_, s1) =>
    (memWrite_neverIllegal s1 _ _).bind fun _ => .ok _

theorem serviceWrite_neverIllegal (rj : Reg) (top : Word) :
    NeverIllegal (serviceWrite rj top s) :=
  (memRead_neverIllegal s _).bind fun _ => .ok _

theorem serviceClock_neverIllegal (rj : Reg) (top : Word) :
    NeverIllegal (serviceClock rj top s) :=
  (memRead_neverIllegal s _).bind fun _ => (memRead_neverIllegal s _).bind fun _ =>
    (memRead_neverIllegal s _).bind fun _ => (memWrite_neverIllegal s _ _).bind fun s1 =>
      (memWrite_neverIllegal s1 _ _).bind fun s2 =>
        (memWrite_neverIllegal s2 _ _).bind fun _ => .ok _

theorem runService_neverIllegal (rj : Reg) (top : Word) (service : Service) :
    NeverIllegal (runService rj top s service) := by
  cases service with
  | halt => exact .ok _
  | read => exact serviceRead_neverIllegal s rj top
  | write => exact serviceWrite_neverIllegal s rj top
  | time | date => exact serviceClock_neverIllegal s rj top

theorem narrow_neverIllegal (r : Int) : NeverIllegal (narrow r) := .ite (.ok _) nofun

theorem shiftBy_neverIllegal (v : Word) (f : Nat → Int) : NeverIllegal (shiftBy v f) :=
  .ite (.ok _) nofun

end NeverIllegal

/-! ### Every instruction is an operation behind its operand (R54, R58, R110) -/

/-- The instruction evaluates its second operand first, and then runs an operation that raises no
IllegalInstruction. -/
def RunsBehindOperand (i : Instr) (s : State) : Prop :=
  ∃ operation, exec i s = withOperand i.operand s operation ∧ ∀ v, NeverIllegal (operation v)

/-- The arithmetic, logic and shift instructions, from the result each writes to Rj. -/
theorem RunsBehindOperand.of_operate {i : Instr} {s : State} {rj : Reg}
    {result : Word → Word → Except Fault Word} (hexec : exec i s = operate result rj i.operand s)
    (hresult : ∀ x v, NeverIllegal (result x v)) : RunsBehindOperand i s :=
  ⟨_, hexec, fun v => (hresult (s.reg rj) v).bind fun _ => .ok _⟩

/-- The jumps, from the condition each tests. -/
theorem RunsBehindOperand.of_jumpIf {i : Instr} {s : State} {taken : Bool}
    (hexec : exec i s = jumpIf taken i.operand s) : RunsBehindOperand i s :=
  ⟨_, hexec, fun _ => .ok _⟩

theorem runsBehindOperand_in (rj : Reg) (op : Operand) (s : State) :
    RunsBehindOperand (.inp rj op) s := by
  refine ⟨_, rfl, fun v => ?_⟩
  split
  · exact nofun
  · exact (takeInput_neverIllegal s _).bind fun _ => .ok _

theorem runsBehindOperand_out (rj : Reg) (op : Operand) (s : State) :
    RunsBehindOperand (.out rj op) s := by
  refine ⟨_, rfl, fun v => ?_⟩
  split
  · exact nofun
  · exact .ok _

theorem runsBehindOperand_call (rj : Reg) (op : Operand) (s : State) :
    RunsBehindOperand (.call rj op) s :=
  ⟨_, rfl, fun _ => (pushFrom_neverIllegal s rj _).bind fun s1 =>
    (pushFrom_neverIllegal s1 rj _).bind fun _ => .ok _⟩

theorem runsBehindOperand_exit (rj : Reg) (op : Operand) (s : State) :
    RunsBehindOperand (.exit rj op) s :=
  ⟨_, rfl, fun _ => (popInto_neverIllegal s rj .fp).bind fun s1 =>
    (memRead_neverIllegal s1 _).bind fun _ => .ok _⟩

theorem runsBehindOperand_svc (rj : Reg) (op : Operand) (s : State) :
    RunsBehindOperand (.svc rj op) s := by
  refine ⟨_, rfl, fun v => ?_⟩
  split
  · exact nofun
  · exact (scratch_neverIllegal s _).bind fun s1 => runService_neverIllegal s1 rj _ _

theorem runsBehindOperand (i : Instr) (s : State) : RunsBehindOperand i s := by
  cases i with
  | nop | load | comp => exact ⟨_, rfl, fun _ => .ok _⟩
  | store rj => exact ⟨_, rfl, fun v => memWrite_neverIllegal s v (s.reg rj)⟩
  | inp => exact runsBehindOperand_in _ _ s
  | out => exact runsBehindOperand_out _ _ s
  | add | sub | mul => exact .of_operate rfl fun _ _ => narrow_neverIllegal _
  | div => exact .of_operate rfl fun _ _ => .ite nofun (narrow_neverIllegal _)
  | mod => exact .of_operate rfl fun _ _ => .ite nofun (.ok _)
  | and | or | xor | not => exact .of_operate rfl fun _ _ => .ok _
  | shl | shr | shra => exact .of_operate rfl fun _ _ => shiftBy_neverIllegal _ _
  | jump | jneg | jzer | jpos | jnneg | jnzer | jnpos | jles | jequ | jgre | jnles | jnequ
  | jngre => exact .of_jumpIf rfl
  | call => exact runsBehindOperand_call _ _ s
  | exit => exact runsBehindOperand_exit _ _ s
  | push rj => exact ⟨_, rfl, fun _ => pushFrom_neverIllegal s rj _⟩
  | pop rj op => exact ⟨_, rfl, fun _ => popInto_neverIllegal s rj op.ri⟩
  | pushr rj => exact ⟨_, rfl, fun _ => pushAll_neverIllegal s rj _⟩
  | popr rj => exact ⟨_, rfl, fun _ => popAll_neverIllegal s rj _⟩
  | svc => exact runsBehindOperand_svc _ _ s

/-- Settles O9: an operation behind an operand ends in a next state or a fault. -/
theorem noInstructionIsRefused : Obligations.NoInstructionIsRefused := by
  intro i s r
  obtain ⟨operation, hexec, -⟩ := runsBehindOperand i s
  rw [hexec]
  exact complete_ne_refused _ r

/-- Settles O11: the operand is evaluated before the operation, whatever the operation is. -/
theorem operandFaultComesFirst : Obligations.OperandFaultComesFirst := by
  intro i s hunreadable
  obtain ⟨a, hinvalid, hvalue, haddress⟩ := operandValue_unreadable s i.operand hunreadable
  obtain ⟨operation, hexec, -⟩ := runsBehindOperand i s
  exact ⟨a, hinvalid, hexec.trans (withOperand_error hvalue operation), haddress⟩

theorem exec_ne_illegalInstruction (i : Instr) (s : State) (x : Word) :
    exec i s ≠ .fault (.illegalInstruction x) := by
  obtain ⟨operation, hexec, hoperation⟩ := runsBehindOperand i s
  rw [hexec, withOperand, ne_eq, complete_eq_fault]
  exact (operandValue_neverIllegal s _).bind hoperation x

/-! ### The words that are no instruction (R55) -/

/-- An opcode selects no operation exactly where it is none of the 38 assigned values (R56). -/
theorem operationOf_eq_none (n : Nat) : operationOf n = none ↔ ¬assignedOpcode n := by
  unfold operationOf
  split
  case h_39 =>
    refine iff_of_true rfl ?_
    simp only [imp_false] at *
    omega
  all_goals exact iff_of_false nofun (not_not_intro (by decide))

/-- A two-bit value selects no mode exactly where it is 3 (R52). -/
theorem modeOf_eq_none {n : Nat} (hn : n < 4) : modeOf n = none ↔ n = 3 := by
  interval_cases n <;> simp [modeOf]

/-- The decoder rejects exactly the words of the two cases of R55, named by the bits of the word. -/
theorem decode_rejects (w : Word) :
    (∃ e, decode w = .error e) ↔
      ¬assignedOpcode (w.toNat / 2 ^ 24) ∨ w.toNat / 2 ^ 19 % 4 = 3 := by
  have hopcode : opcodeField w = w.toNat / 2 ^ 24 := by
    rw [opcodeField_eq]
    have hw : w.toNat < 4294967296 := w.isLt
    omega
  have hmode : modeField w = w.toNat / 2 ^ 19 % 4 := modeField_eq w
  rw [decode_eq_error, operationOf_eq_none, hopcode, hmode,
    modeOf_eq_none (Nat.mod_lt _ (by norm_num))]

/-- Settles O3: a rejected word raises it with itself, and no instruction raises it. -/
theorem illegalInstructionExactly : Obligations.IllegalInstructionExactly := by
  intro s hrun hpc x
  have hfetch : s.fetch = .ok (s.word s.pc.toNat) := memRead_valid s s.pc hpc
  constructor
  · intro hstep
    cases hdecode : decode (s.word s.pc.toNat) with
    | error e =>
      rw [step_of_decode_error hrun hfetch hdecode] at hstep
      obtain rfl : s.word s.pc.toNat = x := by simpa using hstep
      exact ⟨rfl, (decode_rejects _).mp ⟨e, hdecode⟩⟩
    | ok i =>
      rw [step_of_decode_ok hrun hfetch hdecode] at hstep
      exact absurd hstep (exec_ne_illegalInstruction i _ x)
  · rintro ⟨rfl, hrejected⟩
    obtain ⟨e, hdecode⟩ := (decode_rejects _).mpr hrejected
    exact step_of_decode_error hrun hfetch hdecode

end Sys2Proof.Machine
end

section
/-! SUPPORT. The assembler's operands (R61, R62, R66): the fields of each form, the value the
hardware gives them, and that every constant emitted is in range. -/

namespace Sys2Proof.Machine

/-! ### Constants -/

/-- A number in range stands for itself (R66). -/
theorem addrValue_number (table : SymbolTable) {n : Int} (h : addrInRange n) :
    addrValue table (.number n) = .ok n := if_pos h

theorem addrInRange_zero : addrInRange 0 := by decide

/-- A step of the assembler after which it still answers: the step answered. -/
theorem assembler_bind_eq_ok {α β : Type} {x : Except AsmError α} {f : α → Except AsmError β}
    {b : β} (h : x >>= f = .ok b) : ∃ a, x = .ok a ∧ f a = .ok b := by
  cases x with
  | ok a => exact ⟨a, rfl, h⟩
  | error e => cases h

/-- The assembler answers only constants in range (R66). -/
theorem addrValue_inRange {table : SymbolTable} {a : Const} {n : Int}
    (h : addrValue table a = .ok n) : addrInRange n := by
  obtain ⟨m, -, h⟩ := assembler_bind_eq_ok h
  split at h
  · next hm => exact Except.ok.inj h ▸ hm
  · cases h

/-! ### The forms -/

/-- Settles O56: each form puts its own constant and register in the fields of its row. -/
theorem operandFormFields : Obligations.OperandFormFields := by
  intro table n r hn
  have haddr := addrValue_number table hn
  refine ⟨?_, rfl, ?_, ?_, rfl, ?_, ?_, ?_⟩
  all_goals rw [valueOperand, haddr]; rfl

/-- Settles O57: the mode is one less than written, so the hardware reads one word less than the
form says, and is left with the address (R62). -/
theorem addressFormMeaning : Obligations.AddressFormMeaning := by
  intro m table n r s hn
  have haddr := addrValue_number table hn
  refine ⟨⟨⟨.immediate, 0, n⟩, ?_, ?_⟩, ⟨⟨.immediate, r.reg, n⟩, ?_, rfl⟩,
    ⟨⟨.immediate, r.reg, 0⟩, rfl, ?_⟩, ⟨⟨.direct, 0, n⟩, ?_, ?_⟩,
    ⟨⟨.direct, r.reg, n⟩, ?_, rfl⟩, rfl, rfl, rfl⟩
  · rw [addressOperand, haddr]; rfl
  · rw [operandValue_immediate s rfl, indexedAddress_eq]
    simp
  · rw [addressOperand, haddr]; rfl
  · rw [operandValue_immediate s rfl, State.indexedAddress]
    simp [wrap32]
  · rw [addressOperand, haddr]; rfl
  · rw [operandValue_direct s rfl, indexedAddress_eq]
    simp
  · rw [addressOperand, haddr]; rfl

/-! ### Instructions -/

/-- A form that keeps a constant has it from `addrValue`, in range. -/
theorem inRange_of_addrValue {table : SymbolTable} {a : Const} {f : Int → Operand} {op : Operand}
    (hf : ∀ n, (f n).addr = n)
    (h : (addrValue table a >>= fun n => (.ok (f n) : Except AsmError Operand)) = .ok op) :
    addrInRange op.addr := by
  obtain ⟨n, hn, h⟩ := assembler_bind_eq_ok h
  obtain rfl := Except.ok.inj h
  exact (hf n).symm ▸ addrValue_inRange hn

theorem valueOperand_inRange {table : SymbolTable} {form : OperandForm} {op : Operand}
    (h : valueOperand table form = .ok op) : addrInRange op.addr := by
  cases form with
  | register | indirectRegister => exact Except.ok.inj h ▸ addrInRange_zero
  | direct | immediate | indirect | indexed | indexedImmediate | indexedIndirect =>
    exact inRange_of_addrValue (fun _ => rfl) h

theorem addressOperand_inRange {m : Mnemonic} {table : SymbolTable} {form : OperandForm}
    {op : Operand} (h : addressOperand m table form = .ok op) : addrInRange op.addr := by
  cases form with
  | indirectRegister => exact Except.ok.inj h ▸ addrInRange_zero
  | immediate | indexedImmediate | register => cases h
  | direct | indirect | indexed | indexedIndirect => exact inRange_of_addrValue (fun _ => rfl) h

theorem operandFields_inRange {table : SymbolTable} {m : Mnemonic} {operand : Option OperandForm}
    {op : Operand} (h : operandFields table m operand = .ok op) : addrInRange op.addr := by
  unfold operandFields at h
  split at h
  · exact valueOperand_inRange h
  · cases h
  · exact addressOperand_inRange h
  · cases h
  · exact Except.ok.inj h ▸ addrInRange_zero
  · cases h
  · cases h
  · exact Except.ok.inj h ▸ addrInRange_zero

@[simp] theorem operand_build (m : Mnemonic) (rj : Reg) (op : Operand) :
    (m.build rj op).operand = op := by cases m <;> rfl

/-- The instruction of a line has the operand its fields were assembled to. -/
theorem assembleInstruction_operand {table : SymbolTable} {m : Mnemonic} {rj : Option RegName}
    {operand : Option OperandForm} {i : Instr}
    (h : assembleInstruction table m rj operand = .ok i) :
    operandFields table m operand = .ok i.operand := by
  obtain ⟨j, -, h⟩ := assembler_bind_eq_ok h
  obtain ⟨op, hop, h⟩ := assembler_bind_eq_ok h
  obtain rfl := Except.ok.inj h
  rw [hop, operand_build]

/-- Settles O58: the constant emitted is in range, so the instruction survives its round trip. -/
theorem assembledIsWellFormed : Obligations.AssembledIsWellFormed := by
  intro table m rj operand i h
  have hwf : i.WellFormed := operandFields_inRange (assembleInstruction_operand h)
  exact ⟨hwf, decodeEncode i hwf⟩

end Sys2Proof.Machine
end

section
/-! SUPPORT. Data transfer (R81 to R84): which device each number names, and what LOAD, STORE, IN and
OUT answer once their operand is read. -/

namespace Sys2Proof.Machine

/-! ### Device numbers (R3, R83, R84) -/

/-- With distinct device numbers each input number names its device. -/
theorem inputDeviceOf_inputNumber {p : Params} (hp : p.Valid) (d : InputDevice) :
    inputDeviceOf p (inputNumber p d) = some d := by
  obtain ⟨-, -, hdevices, -⟩ := hp
  have hne : p.devStdin ≠ p.devKbd := fun h => by simp [h] at hdevices
  cases d with
  | kbd => exact if_pos rfl
  | stdin => exact (if_neg hne).trans (if_pos rfl)

theorem inputDeviceOf_eq_none {p : Params} {v : Word} (hkbd : v ≠ p.devKbd)
    (hstdin : v ≠ p.devStdin) : inputDeviceOf p v = none :=
  (if_neg hkbd).trans (if_neg hstdin)

theorem outputDeviceOf_devCrt (p : Params) : outputDeviceOf p p.devCrt = some .crt := if_pos rfl

/-- The screen is tried first, so STDOUT is named because its number is another (R3). -/
theorem outputDeviceOf_devStdout {p : Params} (hp : p.Valid) :
    outputDeviceOf p p.devStdout = some .stdout := by
  obtain ⟨-, -, hdevices, -⟩ := hp
  have hne : p.devStdout ≠ p.devCrt := fun h => by simp [h] at hdevices
  exact (if_neg hne).trans (if_pos rfl)

theorem outputDeviceOf_eq_none {p : Params} {v : Word} (hcrt : v ≠ p.devCrt)
    (hstdout : v ≠ p.devStdout) : outputDeviceOf p v = none :=
  (if_neg hcrt).trans (if_neg hstdout)

/-! ### What each instruction answers -/

section Readable
variable {s : State} {rj : Reg} {op : Operand} (hop : s.OperandReadable op)
include hop

/-- STORE with a readable operand that is no valid address faults with it (R82). -/
theorem exec_store_invalid (ha : ¬s.ValidAddress (s.operandWord op)) :
    exec (.store rj op) s = .fault (.addressOutOfBounds (s.operandWord op)) := by
  rw [exec, execStore, withOperand_readable op s _ hop, memWrite_invalid s _ _ ha, complete_error]

/-- IN from a device that supplies a word: the device loses it and Rj receives it (R83). -/
theorem exec_inp_supplies {d : InputDevice} {v : Word} {rest : InputSequence}
    (hd : inputDeviceOf s.params (s.operandWord op) = some d)
    (hsupplies : (s.input d).Supplies v rest) :
    exec (.inp rj op) s = .next ((s.setInput d rest).setReg rj v) := by
  rw [exec, execIn, withOperand_readable op s _ hop]
  simp only [hd, takeInput_supplies s d v rest hsupplies]
  rfl

/-- IN from a device with nothing left is the fault that stands for the stuck state (R83, R194;
log 8). -/
theorem exec_inp_ended {d : InputDevice} (hd : inputDeviceOf s.params (s.operandWord op) = some d)
    (hended : s.input d = .ended) :
    exec (.inp rj op) s = .fault (.inputExhausted (inputNumber s.params d)) := by
  rw [exec, execIn, withOperand_readable op s _ hop]
  simp only [hd, takeInput_ended s d hended, bind_error, complete_error]

theorem exec_inp_invalidDevice (hd : inputDeviceOf s.params (s.operandWord op) = none) :
    exec (.inp rj op) s = .fault (.invalidDevice (s.operandWord op)) := by
  rw [exec, execIn, withOperand_readable op s _ hop]
  simp only [hd, complete_error]

/-- OUT to a device appends Rj to its sequence (R84). -/
theorem exec_out_device {d : OutputDevice}
    (hd : outputDeviceOf s.params (s.operandWord op) = some d) :
    exec (.out rj op) s = .next (s.putOutput d (s.reg rj)) := by
  rw [exec, execOut, withOperand_readable op s _ hop]
  simp only [hd, complete_ok]

theorem exec_out_invalidDevice (hd : outputDeviceOf s.params (s.operandWord op) = none) :
    exec (.out rj op) s = .fault (.invalidDevice (s.operandWord op)) := by
  rw [exec, execOut, withOperand_readable op s _ hop]
  simp only [hd, complete_error]

end Readable

/-! ### The obligations -/

/-- Settles O14: the operation on the operand's word writes Rj and cannot fault. -/
theorem loadResult : Obligations.LoadResult := by
  intro s rj op hop
  rw [exec, execLoad, withOperand_readable op s _ hop, complete_ok]

/-- Settles O15: the write to memory at `V` completes or faults. -/
theorem storeResult : Obligations.StoreResult :=
  fun _ _ _ hop => ⟨exec_store_valid hop, exec_store_invalid hop⟩

/-- Settles O16: each input number names its device, whose sequence supplies a word or has ended; any
other number names none. -/
theorem inResult : Obligations.InResult := by
  intro s rj op hp hop
  have hnames (d : InputDevice) (h : s.operandWord op = inputNumber s.params d) :
      inputDeviceOf s.params (s.operandWord op) = some d :=
    h ▸ inputDeviceOf_inputNumber hp d
  have hstuck (d : InputDevice) (h : s.operandWord op = inputNumber s.params d)
      (hended : s.input d = .ended) (t : State) : exec (.inp rj op) s ≠ .next t := by
    rw [exec_inp_ended hop (hnames d h) hended]
    exact nofun
  refine ⟨fun v rest hkbd hsupplies => ?_, fun v rest hstdin hsupplies => ?_, hstuck .kbd,
    hstuck .stdin, fun hkbd hstdin => ?_⟩
  · exact exec_inp_supplies hop (hnames .kbd hkbd) hsupplies
  · exact exec_inp_supplies hop (hnames .stdin hstdin) hsupplies
  · exact exec_inp_invalidDevice hop (inputDeviceOf_eq_none hkbd hstdin)

/-- Settles O18: the number of an output device names it, and the word is appended there; any other
number names none. -/
theorem outResult : Obligations.OutResult := by
  intro s rj op hp hop
  refine ⟨fun hcrt => ?_, fun hstdout => ?_, fun hcrt hstdout => ?_⟩
  · exact exec_out_device hop (hcrt ▸ outputDeviceOf_devCrt s.params)
  · exact exec_out_device hop (hstdout ▸ outputDeviceOf_devStdout hp)
  · exact exec_out_invalidDevice hop (outputDeviceOf_eq_none hcrt hstdout)

end Sys2Proof.Machine
end

section
/-! SUPPORT. Arithmetic and logic (R91 to R106): when a result fits a word, the law of truncated
division, the shifts as shifts of bit vectors, and what each instruction answers once its operand is
read. -/

namespace Sys2Proof.Machine

/-! ### Words and their signed values (R105) -/

/-- A number in the signed range survives being written as a word. -/
theorem toInt_wrap32 {r : Int} (h : fits32 r) : (wrap32 r).toInt = r := by
  obtain ⟨hlo, hhi⟩ := h
  rw [wrap32, BitVec.toInt_ofInt]
  exact Int.bmod_eq_of_le (by omega) (by omega)

@[simp] theorem wrap32_toInt (w : Word) : wrap32 w.toInt = w := BitVec.ofInt_toInt

@[simp] theorem wrap32_toNat (w : Word) : wrap32 w.toNat = w := by
  rw [wrap32, BitVec.ofInt_natCast, BitVec.ofNat_toNat, BitVec.setWidth_eq]

/-! ### Division (R94, R95, R106) -/

theorem divResult_zero {x v : Word} (hv : v.toInt = 0) :
    divResult x v = .error .divisionByZero := if_pos hv

theorem divResult_of_ne_zero {x v : Word} (hv : v.toInt ≠ 0) :
    divResult x v = narrow (x.toInt.tdiv v.toInt) := if_neg hv

theorem modResult_zero {x v : Word} (hv : v.toInt = 0) :
    modResult x v = .error .divisionByZero := if_pos hv

theorem modResult_of_ne_zero {x v : Word} (hv : v.toInt ≠ 0) :
    modResult x v = .ok (wrap32 (x.toInt - x.toInt.tdiv v.toInt * v.toInt)) := if_neg hv

/-- The number MOD writes is the truncated remainder. -/
theorem sub_tdiv_mul (n d : Int) : n - n.tdiv d * d = n.tmod d := by
  rw [Int.tmod_def, Int.mul_comm]

/-- The remainder is smaller than the divisor, so it fits wherever the divisor does. -/
theorem abs_tmod_lt (n : Int) {d : Int} (hd : d ≠ 0) : |n.tmod d| < |d| := by
  rw [Int.abs_eq_natAbs, Int.abs_eq_natAbs, Int.natAbs_tmod]
  exact_mod_cast Nat.mod_lt _ (Int.natAbs_pos.mpr hd)

theorem fits32_tmod (n : Int) {d : Int} (hd : d ≠ 0) (hfits : fits32 d) : fits32 (n.tmod d) := by
  have hdivisor : |d| ≤ 2147483648 := abs_le.mpr ⟨hfits.1, by omega⟩
  obtain ⟨hlo, hhi⟩ := abs_lt.mp ((abs_tmod_lt n hd).trans_le hdivisor)
  constructor <;> omega

/-- A remainder below zero has a dividend below zero (R106). -/
theorem neg_of_tmod_neg {n d : Int} (h : n.tmod d < 0) : n < 0 :=
  lt_of_not_ge fun hn => h.not_ge (Int.tmod_nonneg d hn)

/-- A remainder above zero has a dividend above zero (R106). -/
theorem pos_of_tmod_pos {n d : Int} (h : 0 < n.tmod d) : 0 < n := by
  have hneg : (-n).tmod d < 0 := by rw [Int.neg_tmod]; omega
  have := neg_of_tmod_neg hneg
  omega

/-- A quotient is no larger than its dividend, and at most half of it unless the divisor is 1 or -1;
so the one quotient of two words that leaves the signed range is that of -2^31 by -1. -/
theorem tdiv_overflow {n d : Int} (hn : fits32 n) (hover : ¬fits32 (n.tdiv d)) :
    n = -2147483648 ∧ d = -1 := by
  have hq : (n.tdiv d).natAbs = n.natAbs / d.natAbs := Int.natAbs_tdiv n d
  by_cases hneg : d = -1
  · subst hneg
    rw [Int.tdiv_neg, Int.tdiv_one] at hover
    omega
  by_cases hone : d = 1
  · subst hone
    rw [Int.tdiv_one] at hover
    exact absurd hn hover
  by_cases hzero : d = 0
  · subst hzero
    simp at hover
  have hhalf : n.natAbs / d.natAbs ≤ n.natAbs / 2 := Nat.div_le_div_left (by omega) (by omega)
  omega

/-! ### Shifts (R100 to R103) -/

/-- An amount from 0 to 31 has a result (R103). -/
theorem shiftBy_amount {v : Word} {n : Nat} (hn : v.toInt = n) (hle : n ≤ 31) (f : Nat → Int) :
    shiftBy v f = .ok (wrap32 (f n)) := by
  rw [shiftBy_inRange v f (by omega), hn, Int.toNat_natCast]

/-- Any other amount is the fault that names it (R103). -/
theorem shiftBy_badAmount {v : Word} (hn : v.toInt < 0 ∨ 31 < v.toInt) (f : Nat → Int) :
    shiftBy v f = .error (.shiftAmountOutOfRange v.toInt) :=
  shiftBy_outOfRange v f (by omega)

/-- The word of `u(x) * 2^n` is `x` moved `n` places to the left (R100). -/
theorem wrap32_mul_two_pow (x : Word) (n : Nat) : wrap32 (x.toNat * 2 ^ n) = x <<< n := by
  have hnat : (x.toNat * 2 ^ n : Int) = (x.toNat <<< n : Nat) := by
    rw [Nat.shiftLeft_eq]; push_cast; rfl
  rw [hnat, wrap32, BitVec.ofInt_natCast]
  exact BitVec.eq_of_toNat_eq (by simp)

/-- The word of `floor(u(x) / 2^n)` is `x` moved `n` places to the right (R101). -/
theorem wrap32_div_two_pow (x : Word) (n : Nat) : wrap32 (x.toNat / 2 ^ n) = x >>> n := by
  have hnat : (x.toNat / 2 ^ n : Int) = (x >>> n).toNat := by
    rw [BitVec.toNat_ushiftRight, Nat.shiftRight_eq_div_pow]; push_cast; rfl
  rw [hnat, wrap32_toNat]

theorem fdiv_two_pow (i : Int) (n : Nat) : i.fdiv (2 ^ n) = i / 2 ^ n :=
  Int.fdiv_eq_ediv_of_nonneg i (by positivity)

/-- The word of `floor(s(x) / 2^n)` is `x` moved `n` places to the right, the sign entering at the
left (R102). -/
theorem wrap32_fdiv_two_pow (x : Word) (n : Nat) :
    wrap32 (x.toInt.fdiv (2 ^ n)) = x.sshiftRight n := by
  have hint : x.toInt.fdiv (2 ^ n) = (x.sshiftRight n).toInt := by
    rw [BitVec.toInt_sshiftRight, Int.shiftRight_eq_div_pow, fdiv_two_pow]; norm_cast
  rw [hint, wrap32_toInt]

/-- Bit `k` after an arithmetic shift comes from `n` places higher, or from the leftmost bit where
there is no such place. -/
theorem getLsbD_sshiftRight_min (x : Word) {n k : Nat} (hk : k < 32) :
    (x.sshiftRight n).getLsbD k = x.getLsbD (min (k + n) 31) := by
  rw [BitVec.getLsbD_sshiftRight]
  by_cases hin : k + n < 32
  · rw [show min (k + n) 31 = k + n by omega]
    simp [hin, Nat.add_comm n k, show ¬32 ≤ k by omega]
  · rw [show min (k + n) 31 = 31 by omega]
    simp [BitVec.msb_eq_getLsbD_last, show ¬n + k < 32 by omega, show ¬32 ≤ k by omega]

/-! ### Comparison (R104) -/

/-- Two signed values compare in exactly one way. -/
theorem compareFlags_exactlyOne (x v : Word) :
    (compareFlags x v).l.toNat + (compareFlags x v).e.toNat + (compareFlags x v).g.toNat = 1 := by
  simp only [compareFlags]
  rcases lt_trichotomy x.toInt v.toInt with h | h | h
  · simp [h, h.ne, h.le]
  · simp [h]
  · simp [h, h.ne', h.le]

/-! ### What each instruction answers -/

section Readable
variable {s : State} {rj : Reg} {op : Operand} (hop : s.OperandReadable op)
include hop

/-- An operation whose exact result is `r` writes it where it fits, and otherwise overflows
(R105). -/
theorem operate_narrow {f : Word → Word → Except Fault Word} {r : Int}
    (hf : f (s.reg rj) (s.operandWord op) = narrow r) :
    (fits32 r → operate f rj op s = .next (s.setReg rj (wrap32 r))) ∧
      (¬fits32 r → operate f rj op s = .fault .integerOverflow) :=
  ⟨fun h => operate_ok f rj op s _ hop (hf.trans (narrow_fits r h)),
    fun h => operate_error f rj op s _ hop (hf.trans (narrow_overflow r h))⟩

/-- DIV by a divisor other than zero (R94). -/
theorem exec_div (hd : (s.operandWord op).toInt ≠ 0) :
    (fits32 ((s.reg rj).toInt.tdiv (s.operandWord op).toInt) → exec (.div rj op) s =
        .next (s.setReg rj (wrap32 ((s.reg rj).toInt.tdiv (s.operandWord op).toInt)))) ∧
      (¬fits32 ((s.reg rj).toInt.tdiv (s.operandWord op).toInt) →
        exec (.div rj op) s = .fault .integerOverflow) :=
  operate_narrow hop (divResult_of_ne_zero hd)

/-- MOD by a divisor other than zero (R95). -/
theorem exec_mod (hd : (s.operandWord op).toInt ≠ 0) :
    exec (.mod rj op) s =
      .next (s.setReg rj (wrap32 ((s.reg rj).toInt.tmod (s.operandWord op).toInt))) := by
  rw [← sub_tdiv_mul]
  exact operate_ok modResult rj op s _ hop (modResult_of_ne_zero hd)

theorem exec_and :
    exec (.and rj op) s = .next (s.setReg rj (s.reg rj &&& s.operandWord op)) :=
  operate_ok (fun x v => .ok (x &&& v)) rj op s _ hop rfl

theorem exec_or :
    exec (.or rj op) s = .next (s.setReg rj (s.reg rj ||| s.operandWord op)) :=
  operate_ok (fun x v => .ok (x ||| v)) rj op s _ hop rfl

theorem exec_xor :
    exec (.xor rj op) s = .next (s.setReg rj (s.reg rj ^^^ s.operandWord op)) :=
  operate_ok (fun x v => .ok (x ^^^ v)) rj op s _ hop rfl

theorem exec_not : exec (.not rj op) s = .next (s.setReg rj (~~~s.reg rj)) :=
  operate_ok (fun x _ => .ok (~~~x)) rj op s _ hop rfl

/-- SHL by 0 to 31 places (R100). -/
theorem exec_shl {n : Nat} (hn : (s.operandWord op).toInt = n) (hle : n ≤ 31) :
    exec (.shl rj op) s = .next (s.setReg rj (wrap32 ((s.reg rj).toNat * 2 ^ n))) :=
  operate_ok shlResult rj op s _ hop (shiftBy_amount hn hle _)

/-- SHR by 0 to 31 places (R101). -/
theorem exec_shr {n : Nat} (hn : (s.operandWord op).toInt = n) (hle : n ≤ 31) :
    exec (.shr rj op) s = .next (s.setReg rj (wrap32 ((s.reg rj).toNat / 2 ^ n))) :=
  operate_ok shrResult rj op s _ hop (shiftBy_amount hn hle _)

/-- SHRA by 0 to 31 places (R102). -/
theorem exec_shra {n : Nat} (hn : (s.operandWord op).toInt = n) (hle : n ≤ 31) :
    exec (.shra rj op) s = .next (s.setReg rj (wrap32 ((s.reg rj).toInt.fdiv (2 ^ n)))) :=
  operate_ok shraResult rj op s _ hop (shiftBy_amount hn hle _)

/-- COMP writes the flags of the comparison and cannot fault (R104). -/
theorem exec_comp :
    exec (.comp rj op) s = .next (s.setSr (compareFlags (s.reg rj) (s.operandWord op))) := by
  rw [exec, execComp, withOperand_readable op s _ hop, complete_ok]

end Readable

/-! ### The obligations -/

/-- Settles O19: each of the three narrows its exact result. -/
theorem addSubMulResult : Obligations.AddSubMulResult := by
  rintro s rj op _ _ hop rfl rfl
  obtain ⟨haddFits, haddOver⟩ := operate_narrow (rj := rj) (f := addResult) hop rfl
  obtain ⟨hsubFits, hsubOver⟩ := operate_narrow (rj := rj) (f := subResult) hop rfl
  obtain ⟨hmulFits, hmulOver⟩ := operate_narrow (rj := rj) (f := mulResult) hop rfl
  exact ⟨haddFits, haddOver, hsubFits, hsubOver, hmulFits, hmulOver⟩

/-- Settles O20: DIV narrows the truncated quotient, which leaves the signed range for one pair of
words only; MOD's remainder is written as it is. -/
theorem divModResult : Obligations.DivModResult := by
  intro s rj op n d hop hn hd
  have hnFits : fits32 n := hn ▸ toInt_fits (s.reg rj)
  refine ⟨fun hzero => ⟨?_, ?_⟩, fun hne hpair => ?_, fun hmin hneg => ?_, fun hne => ?_⟩
  · exact operate_error divResult rj op s _ hop (divResult_zero (hd.symm.trans hzero))
  · exact operate_error modResult rj op s _ hop (modResult_zero (hd.symm.trans hzero))
  · have hfits : fits32 (n.tdiv d) := by_contra fun h => hpair (tdiv_overflow hnFits h)
    subst hn hd
    exact (exec_div hop hne).1 hfits
  · have hover : ¬fits32 (n.tdiv d) := by subst hmin hneg; decide
    have hne : d ≠ 0 := by omega
    subst hn hd
    exact (exec_div hop hne).2 hover
  · subst hn hd
    rw [sub_tdiv_mul]
    exact exec_mod hop hne

/-- Settles O21: `q` and `m` are the truncated quotient and remainder, which DIV and MOD leave in Rj
where they fit a word; the remainder always does. -/
theorem divisionLaw : Obligations.DivisionLaw := by
  rintro s rj op _ _ hop rfl rfl hne
  obtain ⟨hdivFits, hdivOver⟩ := exec_div (rj := rj) hop hne
  refine ⟨_, _, (Int.tdiv_mul_add_tmod _ _).symm, abs_tmod_lt _ hne, pos_of_tmod_pos,
    neg_of_tmod_neg, ?_, ?_, ?_⟩
  · refine ⟨_, exec_mod hop hne, ?_⟩
    rw [reg_setReg_same]
    exact toInt_wrap32 (fits32_tmod _ hne (toInt_fits _))
  · intro hfits
    refine ⟨_, hdivFits hfits, ?_⟩
    rw [reg_setReg_same]
    exact toInt_wrap32 hfits
  · intro hover
    obtain ⟨hn, hd⟩ := tdiv_overflow (toInt_fits _) hover
    refine ⟨?_, hdivOver hover⟩
    rw [hn, hd]
    rfl

/-- Settles O22: the four operations are those of bit vectors, and cannot fault. -/
theorem logicBits : Obligations.LogicBits := by
  intro s rj op hop
  refine ⟨⟨_, exec_and hop, fun k _ => BitVec.getLsbD_and⟩,
    ⟨_, exec_or hop, fun k _ => BitVec.getLsbD_or⟩,
    ⟨_, exec_xor hop, fun k _ => BitVec.getLsbD_xor⟩,
    ⟨_, exec_not hop, fun k hk => ?_⟩⟩
  simp [hk]

/-- Settles O23: the amount is tested first; the floor of SHRA is the quotient that rounds down. -/
theorem shiftResult : Obligations.ShiftResult := by
  intro s rj op hop
  refine ⟨fun n hn hle => ⟨exec_shl hop hn hle, exec_shr hop hn hle, _, ?_, ?_,
    exec_shra hop hn hle⟩, ?_⟩
  · rw [fdiv_two_pow]
    exact Int.ediv_mul_le _ (by positivity)
  · rw [fdiv_two_pow]
    exact Int.lt_ediv_add_one_mul_self _ (by positivity)
  · rintro _ rfl hout
    exact ⟨operate_error shlResult rj op s _ hop (shiftBy_badAmount hout _),
      operate_error shrResult rj op s _ hop (shiftBy_badAmount hout _),
      operate_error shraResult rj op s _ hop (shiftBy_badAmount hout _)⟩

/-- Settles O24: each result is a shift of the bit vector, whose bits the library names. -/
theorem shiftBits : Obligations.ShiftBits := by
  intro s rj op n hop hn hle
  refine ⟨⟨_, exec_shl hop hn hle, fun k hk => ?_⟩, ⟨_, exec_shr hop hn hle, fun k hk => ?_⟩,
    ⟨_, exec_shra hop hn hle, fun k hk => ?_⟩⟩
  · rw [wrap32_mul_two_pow, BitVec.getLsbD_shiftLeft]
    simp [hk, ← decide_not]
  · rw [wrap32_div_two_pow, BitVec.getLsbD_ushiftRight, Nat.add_comm n k]
    by_cases hin : k + n < 32
    · simp [hin]
    · simp [hin, BitVec.getLsbD_of_ge _ _ (Nat.le_of_not_lt hin)]
  · rw [wrap32_fdiv_two_pow, getLsbD_sshiftRight_min _ hk]

/-- Settles O25: the three flags are the three signed comparisons. -/
theorem compResult : Obligations.CompResult := fun _ _ _ hop =>
  ⟨_, exec_comp hop, decide_eq_true_iff, decide_eq_true_iff, decide_eq_true_iff,
    compareFlags_exactlyOne _ _⟩

end Sys2Proof.Machine
end

section
/-! SUPPORT. Branching (R110 to R124): what a jump answers once its operand is read, and that the
flags COMP leaves make each "not" condition the negation of the flag it names. -/

namespace Sys2Proof.Machine

/-- A jump goes to `V` exactly when its condition holds, and changes nothing otherwise (R110). -/
theorem jumpIf_of_iff {s : State} {op : Operand} (hop : s.OperandReadable op) {taken : Bool}
    {p : Prop} [Decidable p] (htaken : taken = true ↔ p) :
    jumpIf taken op s = .next (if p then s.setPc (s.operandWord op) else s) := by
  rw [jumpIf, withOperand_readable op s _ hop, complete_ok, if_congr htaken rfl rfl]

/-! ### The conditions on two flags (R121 to R124) -/

theorem notLess_iff (sr : StatusRegister) : sr.notLess = true ↔ sr.e ∨ sr.g :=
  Bool.or_eq_true_iff

theorem notEqual_iff (sr : StatusRegister) : sr.notEqual = true ↔ sr.l ∨ sr.g :=
  Bool.or_eq_true_iff

theorem notGreater_iff (sr : StatusRegister) : sr.notGreater = true ↔ sr.l ∨ sr.e :=
  Bool.or_eq_true_iff

/-- A COMP that completes leaves exactly one flag set (R104). -/
theorem exec_comp_exactlyOne {s t : State} {rj : Reg} {op : Operand}
    (hn : exec (.comp rj op) s = .next t) :
    t.sr.l.toNat + t.sr.e.toNat + t.sr.g.toNat = 1 := by
  obtain ⟨-, hv⟩ := (withOperand_next op s t _).mp hn
  obtain rfl := Except.ok.inj hv
  exact compareFlags_exactlyOne _ _

/-- Where exactly one flag is set, one of two flags is set exactly when the third is not. -/
theorem or_iff_not_of_exactlyOne :
    ∀ {a b c : Bool}, a.toNat + b.toNat + c.toNat = 1 → ((a ∨ b) ↔ ¬c) := by
  decide

/-! ### The obligations -/

/-- Settles O26: the test each jump makes is its condition on the signed value of Rj. -/
theorem registerJumps : Obligations.RegisterJumps := by
  rintro s rj op _ hop rfl
  refine ⟨?jump, ?jneg, ?jzer, ?jpos, ?jnneg, ?jnzer, ?jnpos⟩
  case jump => exact jumpIf_of_iff (p := True) hop (iff_of_true rfl trivial)
  all_goals exact jumpIf_of_iff hop decide_eq_true_iff

/-- Settles O27: the test each jump makes is on the flags alone, one of them or either of two. -/
theorem flagJumps : Obligations.FlagJumps := fun s _ _ hop =>
  ⟨jumpIf_of_iff hop Iff.rfl, jumpIf_of_iff hop Iff.rfl, jumpIf_of_iff hop Iff.rfl,
    jumpIf_of_iff hop (notLess_iff s.sr), jumpIf_of_iff hop (notEqual_iff s.sr),
    jumpIf_of_iff hop (notGreater_iff s.sr)⟩

/-- Settles O28: with no flag set none of the conditions of O27 holds; after a COMP exactly one flag
is set, so "one of the two others" is "not this one". -/
theorem negatedJumpsAfterComp : Obligations.NegatedJumpsAfterComp := by
  refine fun s t rj rk op op' => ⟨fun hclear hop => ?_, fun hcomp hop => ?_⟩
  · simpa [hclear] using flagJumps s rj op hop
  · have hone := exec_comp_exactlyOne hcomp
    obtain ⟨-, -, -, hnles, hnequ, hngre⟩ := flagJumps t rj op hop
    have hless : (t.sr.e ∨ t.sr.g) ↔ ¬t.sr.l := or_iff_not_of_exactlyOne (by omega)
    have hequal : (t.sr.l ∨ t.sr.g) ↔ ¬t.sr.e := or_iff_not_of_exactlyOne (by omega)
    have hgreater : (t.sr.l ∨ t.sr.e) ↔ ¬t.sr.g := or_iff_not_of_exactlyOne hone
    simp only [hnles, hnequ, hngre, hless, hequal, hgreater, ite_not, and_self]

end Sys2Proof.Machine
end

section
/-! SUPPORT. The stack (R130 to R134): what a row of pushes and a row of pops answer on a stack of
any register, and POPR on the frame a PUSHR leaves. -/

namespace Sys2Proof.Machine

/-! ### The operation behind each instruction -/

section Readable
variable {s : State} {rj : Reg} {op : Operand} (hop : s.OperandReadable op)
include hop

theorem exec_push_readable :
    exec (.push rj op) s = complete (s.pushFrom rj fun _ => s.operandWord op) :=
  withOperand_readable op s _ hop

theorem exec_pop_readable : exec (.pop rj op) s = complete (s.popInto rj op.ri) :=
  withOperand_readable op s _ hop

theorem exec_pushr_readable :
    exec (.pushr rj op) s = complete (s.pushAll rj [0, 1, 2, 3, 4, 5, 6]) :=
  withOperand_readable op s _ hop

theorem exec_popr_readable :
    exec (.popr rj op) s = complete (s.popAll rj [6, 5, 4, 3, 2, 1, 0]) :=
  withOperand_readable op s _ hop

end Readable

/-! ### One push, one pop (R131, R132) -/

/-- Settles O29: PUSH is one push of the operand's word. -/
theorem pushResult : Obligations.PushResult := by
  intro s rj op hop
  rw [exec_push_readable hop]
  refine ⟨fun hvalid => ?_, fun hinvalid => ?_⟩
  · rw [pushFrom_valid s rj _ hvalid, complete_ok, growStack_def]
  · rw [pushFrom_invalid s rj _ hinvalid, complete_error]

/-- Settles O30: POP is one pop into Ri; where Ri is Rj the second write of that register stands. -/
theorem popResult : Obligations.PopResult := by
  intro s rj op hop
  rw [exec_pop_readable hop]
  refine ⟨fun hvalid hne => ?_, fun hvalid heq => ?_, fun hinvalid => ?_⟩
  · rw [popInto_valid s rj _ hvalid, complete_ok, dropStack_def,
      reg_setReg_other s _ _ _ (Ne.symm hne)]
  · rw [popInto_valid s rj _ hvalid, complete_ok, dropStack_def, heq, reg_setReg_same,
      setReg_setReg_same]
  · rw [popInto_invalid s rj _ hinvalid, complete_error]

/-! ### The cells above and below a top -/

theorem add_one_add_ofNat (x : Word) (n : Nat) :
    x + 1 + BitVec.ofNat 32 n = x + BitVec.ofNat 32 (n + 1) := by
  bv_omega

theorem sub_one_sub_ofNat (x : Word) (n : Nat) :
    x - 1 - BitVec.ofNat 32 n = x - BitVec.ofNat 32 (n + 1) := by
  bv_omega

/-- Two cells less than 2^32 apart have different addresses, also across the wrap. -/
theorem toNat_add_ofNat_ne (x : Word) {m n : Nat} (hlt : m < n) (hn : n < 2 ^ 32) :
    (x + BitVec.ofNat 32 m).toNat ≠ (x + BitVec.ofNat 32 n).toNat := by
  simp only [BitVec.toNat_add, BitVec.toNat_ofNat]
  omega

/-- The cells of a frame of seven words, counted down from its top and up from the cell below it. -/
theorem cell_of_frame (x : Word) {k : Nat} (hk : k < 7) :
    x + 7 - BitVec.ofNat 32 (6 - k) = x + BitVec.ofNat 32 (k + 1) := by
  bv_omega

theorem eq_seven_or_lt : ∀ k : Reg, k = 7 ∨ k.val < 7 := by
  decide

/-! ### A row of pushes (R133) -/

section Pushes
variable {s t : State} {j : Reg} {ks : List Reg}

theorem pushFrom_word {v : State → Word} (hp : s.pushFrom j v = .ok t) :
    t.word (s.reg j + 1).toNat = v (s.growStack j) := by
  obtain ⟨-, rfl⟩ := (pushFrom_eq_ok s t j v).mp hp
  exact word_setWord_same _ _ _

theorem pushFrom_reg_other {v : State → Word} {k : Reg} (hp : s.pushFrom j v = .ok t)
    (hk : k ≠ j) : t.reg k = s.reg k := by
  obtain ⟨-, rfl⟩ := (pushFrom_eq_ok s t j v).mp hp
  exact reg_setReg_other s j k _ hk

theorem pushAll_cons {k : Reg} (h : s.ValidAddress (s.reg j + 1)) :
    s.pushAll j (k :: ks) =
      ((s.growStack j).setWord (s.reg j + 1).toNat ((s.growStack j).reg k)).pushAll j ks := by
  rw [State.pushAll, pushFrom_valid s j _ h, bind_ok]

/-- A row of pushes into existing cells completes; it moves the stack pointer and writes memory. -/
theorem pushAll_of_valid
    (h : ∀ n < ks.length, s.ValidAddress (s.reg j + BitVec.ofNat 32 (n + 1))) :
    ∃ m : Memory, s.pushAll j ks =
      .ok { s.setReg j (s.reg j + BitVec.ofNat 32 ks.length) with mem := m } := by
  induction ks generalizing s with
  | nil => exact ⟨s.mem, by simp [State.pushAll]⟩
  | cons k ks ih =>
    rw [pushAll_cons (h 0 (Nat.succ_pos _))]
    have hgrown := ih (s := (s.growStack j).setWord (s.reg j + 1).toNat ((s.growStack j).reg k))
    simp only [growStack_def, setReg_setWord, reg_setReg_same, setReg_setReg_same,
      add_one_add_ofNat] at hgrown
    exact hgrown fun n hn => h (n + 1) (Nat.succ_lt_succ hn)

/-- The first cell of a row of pushes that does not exist is the fault. -/
theorem pushAll_of_invalid {n : Nat} (hn : n < ks.length)
    (h : ∀ l < n, s.ValidAddress (s.reg j + BitVec.ofNat 32 (l + 1)))
    (hinvalid : ¬s.ValidAddress (s.reg j + BitVec.ofNat 32 (n + 1))) :
    s.pushAll j ks = .error (.addressOutOfBounds (s.reg j + BitVec.ofNat 32 (n + 1))) := by
  induction ks generalizing s n with
  | nil => exact absurd hn (Nat.not_lt_zero n)
  | cons k ks ih =>
    cases n with
    | zero =>
      rw [State.pushAll, pushFrom_invalid s j _ hinvalid, bind_error]
      rfl
    | succ n =>
      rw [pushAll_cons (h 0 (Nat.succ_pos n))]
      have hgrown := ih (s := (s.growStack j).setWord (s.reg j + 1).toNat ((s.growStack j).reg k))
        (Nat.lt_of_succ_lt_succ hn)
      simp only [growStack_def, setWord_reg, reg_setReg_same, add_one_add_ofNat] at hgrown
      exact hgrown (fun l hl => h (l + 1) (Nat.succ_lt_succ hl)) hinvalid

/-- A row of pushes changes no word but those of its cells. -/
theorem pushAll_word_other (hp : s.pushAll j ks = .ok t) {a : Nat}
    (ha : ∀ n < ks.length, a ≠ (s.reg j + BitVec.ofNat 32 (n + 1)).toNat) :
    t.word a = s.word a := by
  refine pushAll_words (as := (List.range ks.length).map fun n => s.reg j + BitVec.ofNat 32 (n + 1))
    (fun n hn => List.mem_map.mpr ⟨n, List.mem_range.mpr hn, rfl⟩) hp a fun w hw => ?_
  obtain ⟨n, hn, rfl⟩ := List.mem_map.mp hw
  exact ha n (List.mem_range.mp hn)

/-- Each cell of a row of pushes holds the register pushed into it; the stack pointer, read once it
has grown, is the address of its own cell. -/
theorem pushAll_word (hp : s.pushAll j ks = .ok t) (hlen : ks.length < 2 ^ 32) {n : Nat}
    (hn : n < ks.length) :
    t.word (s.reg j + BitVec.ofNat 32 (n + 1)).toNat =
      if ks[n] = j then s.reg j + BitVec.ofNat 32 (n + 1) else s.reg ks[n] := by
  induction ks generalizing s n with
  | nil => exact absurd hn (Nat.not_lt_zero n)
  | cons k ks ih =>
    obtain ⟨s', hpush, hrest⟩ := (bind_eq_ok _ _ _).mp hp
    have hlen' : ks.length + 1 < 2 ^ 32 := hlen
    cases n with
    | zero =>
      have hkept : t.word (s.reg j + 1).toNat = s'.word (s.reg j + 1).toNat :=
        pushAll_word_other hrest fun n hn => by
          rw [pushFrom_reg hpush, add_one_add_ofNat]
          exact toNat_add_ofNat_ne _ (m := 1) (by omega) (by omega)
      exact hkept.trans ((pushFrom_word hpush).trans (reg_setReg s j k _))
    | succ n =>
      have hcell := ih hrest (by omega) (Nat.lt_of_succ_lt_succ hn)
      rw [pushFrom_reg hpush, add_one_add_ofNat] at hcell
      refine hcell.trans (ite_congr rfl (fun _ => rfl) fun hne => ?_)
      exact pushFrom_reg_other hpush hne

end Pushes

/-! ### A row of pops (R134) -/

theorem andThen_next (o : Host.Outcome State Fault Refusal) : andThen o .next = o := by
  cases o <;> rfl

/-- The outcome of two operations in a row is the outcome of the first, then that of the second. -/
theorem complete_bind (e : Except Fault State) (f : State → Except Fault State) :
    complete (e >>= f) = andThen (complete e) fun t => complete (f t) := by
  cases e <;> rfl

/-- A row of pops is one POP after another; an operand of form `=0` can always be read. -/
theorem complete_popAll_cons (s : State) (j k : Reg) (ks : List Reg) :
    complete (s.popAll j (k :: ks)) =
      andThen (exec (.pop j ⟨.immediate, k, 0⟩) s) fun t => complete (t.popAll j ks) := by
  have hop : s.OperandReadable ⟨.immediate, k, 0⟩ := ⟨fun h => absurd rfl h, nofun⟩
  rw [State.popAll, complete_bind, exec_pop_readable hop]

theorem complete_popAll_nil (s : State) (j : Reg) : complete (s.popAll j []) = .next s := rfl

/-- Settles O32: POPR is a row of seven pops. -/
theorem poprIsSevenPops : Obligations.PoprIsSevenPops := by
  intro s rj op hop
  rw [exec_popr_readable hop]
  simp only [complete_popAll_cons, complete_popAll_nil, andThen_next]

section Pops
variable {s t : State} {j : Reg} {ks : List Reg}

/-- A row of pops changes registers alone. -/
theorem popAll_eq (hp : s.popAll j ks = .ok t) : t = { s with regs := t.regs } := by
  induction ks generalizing s with
  | nil => rw [← Except.ok.inj hp]
  | cons k ks ih =>
    obtain ⟨s', hpop, hrest⟩ := (bind_eq_ok _ _ _).mp hp
    obtain ⟨-, rfl⟩ := (popInto_eq_ok _ _ _ _).mp hpop
    exact (ih hrest :)

/-- A row of pops leaves the registers it does not name, other than the stack pointer. -/
theorem popAll_reg_other (hp : s.popAll j ks = .ok t) {k : Reg} (hk : k ∉ ks) (hj : k ≠ j) :
    t.reg k = s.reg k :=
  popAll_agree (w := fun p => ∃ i, (i ∈ ks ∨ i = j) ∧ p = .reg i) (.refl _ s) ⟨j, .inr rfl, rfl⟩
    (fun i hi => ⟨i, .inl hi, rfl⟩) hp (.reg k) (by rintro ⟨i, hi, ⟨⟩⟩; exact hi.elim hk hj)

/-- A pop that does not redirect the stack: the register popped into is another one, or its cell
holds its own address. -/
theorem popInto_of_intact {k : Reg} (h : s.ValidAddress (s.reg j))
    (hown : k = j → s.word (s.reg j).toNat = s.reg j) :
    s.popInto j k = .ok ((s.setReg k (s.word (s.reg j).toNat)).setReg j (s.reg j - 1)) := by
  rw [popInto_valid s j k h, dropStack_def]
  by_cases hk : k = j
  · rw [hk, reg_setReg_same, hown hk]
  · rw [reg_setReg_other s k j _ (Ne.symm hk)]

/-- A row of pops into different registers from cells that exist, where a cell for the stack pointer
holds its own address: each register receives its cell and the stack pointer drops by one cell for
each. -/
theorem popAll_of_intact (hnodup : ks.Nodup)
    (h : ∀ n < ks.length, s.ValidAddress (s.reg j - BitVec.ofNat 32 n))
    (hown : ∀ (n : Nat) (hn : n < ks.length), ks[n] = j →
      s.word (s.reg j - BitVec.ofNat 32 n).toNat = s.reg j - BitVec.ofNat 32 n) :
    ∃ t, s.popAll j ks = .ok t ∧ t.reg j = s.reg j - BitVec.ofNat 32 ks.length ∧
      ∀ (n : Nat) (hn : n < ks.length), ks[n] ≠ j →
        t.reg ks[n] = s.word (s.reg j - BitVec.ofNat 32 n).toNat := by
  induction ks generalizing s with
  | nil => exact ⟨s, rfl, by simp, nofun⟩
  | cons k ks ih =>
    obtain ⟨hk, hnodup⟩ := List.nodup_cons.mp hnodup
    have hcell : s.reg j - BitVec.ofNat 32 0 = s.reg j := BitVec.sub_zero _
    have hpop := popInto_of_intact (hcell ▸ h 0 (Nat.succ_pos _)) fun hk => by
      simpa only [hcell] using hown 0 (Nat.succ_pos _) hk
    have hrest := ih (s := (s.setReg k (s.word (s.reg j).toNat)).setReg j (s.reg j - 1)) hnodup
    simp only [reg_setReg_same, sub_one_sub_ofNat, setReg_word] at hrest
    obtain ⟨t, hpops, htop, hcells⟩ := hrest (fun n hn => h (n + 1) (Nat.succ_lt_succ hn))
      fun n hn => hown (n + 1) (Nat.succ_lt_succ hn)
    refine ⟨t, (bind_eq_ok _ _ _).mpr ⟨_, hpop, hpops⟩, htop, fun n hn hne => ?_⟩
    cases n with
    | zero =>
      have hkept : t.reg k = s.word (s.reg j).toNat :=
        (popAll_reg_other hpops hk hne).trans
          ((reg_setReg_other _ _ _ _ hne).trans (reg_setReg_same _ _ _))
      rw [hcell]
      exact hkept
    | succ n => exact hcells n (Nat.lt_of_succ_lt_succ hn) hne

end Pops

/-! ### PUSHR and POPR (R133, R134) -/

/-- Settles O31: PUSHR is a row of seven pushes, whose cells are the only words it changes. -/
theorem pushrResult : Obligations.PushrResult := by
  rintro s rj op _ hop rfl
  rw [exec_pushr_readable hop]
  refine ⟨fun hvalid => ?_, fun k hk hvalid hinvalid => ?_⟩
  · obtain ⟨m, hp⟩ := pushAll_of_valid (ks := [0, 1, 2, 3, 4, 5, 6]) hvalid
    have hregs : ∀ (k : Reg) (hk : k.val < 7),
        ([0, 1, 2, 3, 4, 5, 6] : List Reg)[k.val]'hk = k := by decide
    refine ⟨m, by rw [hp]; rfl, fun k hk => ?_, fun a ha => pushAll_word_other hp ha⟩
    have hcell := pushAll_word hp (by decide) (n := k.val) hk
    rwa [hregs k hk] at hcell
  · rw [pushAll_of_invalid hk hvalid hinvalid, complete_error]

/-- Settles O33: the row names Rj at most once, at its own cell, which does not redirect the stack;
the seven registers differ, so each keeps what it received. -/
theorem poprResult : Obligations.PoprResult := by
  rintro s rj op _ hop rfl hvalid hown
  have hregs : ∀ (n : Nat) (hn : n < 7),
      (([6, 5, 4, 3, 2, 1, 0] : List Reg)[n]'hn).val = 6 - n := by decide
  obtain ⟨t, hp, htop, hcells⟩ := popAll_of_intact (ks := [6, 5, 4, 3, 2, 1, 0]) (by decide) hvalid
    fun n hn hrj => by
      have hval : rj.val = 6 - n := hrj ▸ hregs n hn
      have hn7 : n < 7 := hn
      have hcell := hown.resolve_left fun h7 => by
        have hseven : rj.val = 7 := congrArg Fin.val h7
        omega
      rwa [show 6 - rj.val = n by omega] at hcell
  refine ⟨t.regs, ?_, htop, fun k hne hk => ?_, fun k hne h7 => ?_⟩
  · rw [exec_popr_readable hop, hp, complete_ok, ← popAll_eq hp]
  · have hn : 6 - k.val < 7 := by omega
    have hk' : ([6, 5, 4, 3, 2, 1, 0] : List Reg)[6 - k.val]'hn = k :=
      Fin.ext (by rw [hregs _ hn]; omega)
    have hcell := hcells _ hn
    rw [hk'] at hcell
    exact hcell hne
  · exact popAll_reg_other hp (by subst h7; decide) hne

/-- A PUSHR that completes had seven cells to store to, and leaves the frame of O31 in them. -/
theorem exec_pushr_next {s t : State} {rj : Reg} {op : Operand}
    (hn : exec (.pushr rj op) s = .next t) :
    (∀ k < 7, s.ValidAddress (s.reg rj + BitVec.ofNat 32 (k + 1))) ∧
      t = { s.setReg rj (s.reg rj + 7) with mem := t.mem } ∧
      ∀ k : Reg, k.val < 7 → t.word (s.reg rj + BitVec.ofNat 32 (k.val + 1)).toNat =
        if k = rj then s.reg rj + BitVec.ofNat 32 (k.val + 1) else s.reg k := by
  obtain ⟨hop, -⟩ := (withOperand_next op s t _).mp hn
  obtain ⟨hstored, hfault⟩ := pushrResult s rj op _ hop rfl
  have hvalid (k : Nat) : k < 7 → s.ValidAddress (s.reg rj + BitVec.ofNat 32 (k + 1)) := by
    induction k using Nat.strong_induction_on with
    | h k ih =>
      intro hk
      by_contra hinvalid
      exact nomatch (hfault k hk (fun l hl => ih l hl (hl.trans hk)) hinvalid).symm.trans hn
  obtain ⟨m, hnext, hcells, -⟩ := hstored hvalid
  obtain rfl : _ = t := Host.Outcome.next.inj (hnext.symm.trans hn)
  exact ⟨hvalid, rfl, hcells⟩

/-- Settles O34: the frame a PUSHR leaves is intact, since the cell of the stack pointer holds its
own address; POPR takes each register back from its cell and the stack pointer seven cells down. -/
theorem poprUndoesPushr : Obligations.PoprUndoesPushr := by
  intro s t rj op op' hpushr hop'
  obtain ⟨hvalid, ht, hcells⟩ := exec_pushr_next hpushr
  have hparams : t.params = s.params := (congrArg State.params ht).trans rfl
  have htop : t.reg rj = s.reg rj + 7 := by rw [ht]; exact reg_setReg_same s rj _
  have hkept (k : Reg) (hk : k ≠ rj) : t.reg k = s.reg k := by
    rw [ht]; exact reg_setReg_other s rj k _ hk
  have hframe (k : Nat) (hk : k < 7) : t.ValidAddress (s.reg rj + 7 - BitVec.ofNat 32 k) := by
    have hcell := cell_of_frame (s.reg rj) (k := 6 - k) (by omega)
    rw [Nat.sub_sub_self (by omega)] at hcell
    rw [hcell, State.ValidAddress, hparams]
    exact hvalid (6 - k) (by omega)
  have hown (hlt : rj.val < 7) : t.word (s.reg rj + 7 - BitVec.ofNat 32 (6 - rj.val)).toNat =
      s.reg rj + 7 - BitVec.ofNat 32 (6 - rj.val) := by
    rw [cell_of_frame _ hlt, hcells rj hlt, if_pos rfl]
  obtain ⟨rs, hpopr, hrj, hpopped, hfp⟩ := poprResult t rj op' _ hop' htop.symm hframe
    ((eq_seven_or_lt rj).imp_right hown)
  have hregs (k : Reg) : rs[k.val] = s.reg k := by
    by_cases hk : k = rj
    · subst hk
      exact hrj.trans (BitVec.add_sub_cancel _ _)
    · rcases eq_seven_or_lt k with h7 | hlt
      · exact (hfp k hk h7).trans (hkept k hk)
      · rw [hpopped k hk hlt, cell_of_frame _ hlt, hcells k hlt, if_neg hk]
  obtain rfl : rs = s.regs := Vector.ext fun n hn => hregs ⟨n, hn⟩
  exact hpopr

end Sys2Proof.Machine
end

section
/-! SUPPORT. Subroutines (R141 to R143): what EXIT answers on any stack, and the frame of two cells
that a CALL leaves for it. -/

namespace Sys2Proof.Machine

/-- A pop that answers, as two register writes: where the register popped into is the stack pointer,
the popped word is what drops. -/
theorem popInto_as_writes {s : State} {j k : Reg} {w : Word} (h : s.ValidAddress (s.reg j))
    (hw : w = s.word (s.reg j).toNat) :
    s.popInto j k = .ok ((s.setReg k w).setReg j (if j = k then w - 1 else s.reg j - 1)) := by
  rw [popInto_valid s j k h, dropStack_def, ← hw, reg_setReg, apply_ite (· - 1)]

/-! ### EXIT (R142) -/

/-- With the operand and the cell of FP readable, EXIT is the read of the return address where the
pop of FP left the stack pointer, then the writes of R142. -/
theorem exec_exit_of_validTop {s : State} {rj : Reg} {op : Operand} {fp sp : Word}
    (hop : s.OperandReadable op) (htop : s.ValidAddress (s.reg rj))
    (hfp : fp = s.word (s.reg rj).toNat) (hsp : sp = if rj = 7 then fp - 1 else s.reg rj - 1) :
    exec (.exit rj op) s = complete (s.memRead sp >>= fun ra =>
      .ok (((s.setReg 7 fp).setReg rj (sp - 1 - s.operandWord op)).setPc ra)) := by
  have hpop : s.popInto rj .fp = .ok ((s.setReg 7 fp).setReg rj sp) :=
    hsp ▸ popInto_as_writes htop hfp
  refine (withOperand_readable op s _ hop).trans ?_
  simp only [hpop, bind_ok, dropStack_def, setPc_setReg, setPc_reg, reg_setReg_same,
    setReg_setReg_same]
  rfl

/-- Settles O36: EXIT faults at the cell of FP, or at the cell of the return address, or at none. -/
theorem exitResult : Obligations.ExitResult := by
  rintro s rj op _ fp sp hop rfl hfp hsp
  refine ⟨fun htop hbelow => ?_, fun hinvalid => ?_, fun htop hinvalid => ?_⟩
  · rw [exec_exit_of_validTop hop htop hfp hsp, memRead_valid s sp hbelow, bind_ok, complete_ok]
  · exact (withOperand_readable op s _ hop).trans
      (by rw [popInto_invalid s rj _ hinvalid, bind_error, complete_error])
  · rw [exec_exit_of_validTop hop htop hfp hsp, memRead_invalid s sp hinvalid, bind_error,
      complete_error]

/-! ### EXIT after CALL (R143) -/

/-- A CALL that completes had two cells to store to. It leaves the return address in the lower one
and the FP, read once the stack has grown, in the upper one, which is the new top and the new FP. -/
theorem exec_call_next {s t : State} {rj : Reg} {op : Operand}
    (hn : exec (.call rj op) s = .next t) :
    s.ValidAddress (s.reg rj + 1) ∧ s.ValidAddress (s.reg rj + 2) ∧
      t = ((((s.setReg rj (s.reg rj + 2)).setReg 7 (s.reg rj + 2)).setWord (s.reg rj + 1).toNat
        s.pc).setWord (s.reg rj + 2).toNat (if rj = 7 then s.reg rj + 2 else s.reg 7)).setPc
          (s.operandWord op) := by
  obtain ⟨-, hcall⟩ := (withOperand_next op s t _).mp hn
  obtain ⟨s₁, hra, hrest⟩ := (bind_eq_ok _ _ _).mp hcall
  obtain ⟨s₂, hfp, hend⟩ := (bind_eq_ok _ _ _).mp hrest
  obtain rfl := Except.ok.inj hend
  have htwo : s.reg rj + 1 + 1 = s.reg rj + 2 := add_one_add_ofNat (s.reg rj) 1
  obtain ⟨hvalid₁, rfl⟩ := (pushFrom_eq_ok _ _ _ _).mp hra
  obtain ⟨hvalid₂, rfl⟩ := (pushFrom_eq_ok _ _ _ _).mp hfp
  simp only [growStack_def, setReg_setWord, setReg_setReg_same, setPc_setReg, setReg_pc,
    setReg_validAddress, setWord_validAddress, reg_setReg_same, htwo] at hvalid₂ ⊢
  exact ⟨hvalid₁, hvalid₂, by simp only [reg_setReg, setWord_reg, eq_comm (a := rj)]⟩

/-- The frame a CALL leaves for its EXIT, where the stack is not that of the FP. -/
theorem exec_call_frame {s t : State} {rj : Reg} {op : Operand} (hrj : rj ≠ 7)
    (hn : exec (.call rj op) s = .next t) :
    t.params = s.params ∧ t.reg rj = s.reg rj + 2 ∧ t.word (s.reg rj + 1).toNat = s.pc ∧
      t.word (s.reg rj + 2).toNat = s.reg 7 := by
  obtain ⟨-, -, rfl⟩ := exec_call_next hn
  have hne : (s.reg rj + 1).toNat ≠ (s.reg rj + 2).toNat :=
    toNat_add_ofNat_ne (s.reg rj) (m := 1) (n := 2) (by omega) (by omega)
  refine ⟨rfl, ?_, ?_, ?_⟩
  · exact (reg_setReg_other _ _ _ _ hrj).trans (reg_setReg_same _ _ _)
  · exact (word_setWord_other _ _ _ _ hne).trans (word_setWord_same _ _ _)
  · exact (word_setWord_same _ _ _).trans (if_neg hrj)

/-- Settles O37: the frame of the CALL is where O36 reads FP and the return address, and the stack
pointer ends below it. -/
theorem exitReturnsFromCall : Obligations.ExitReturnsFromCall := by
  intro s t u rj op op' hrj hcall hparams htop hra hfp hop'
  obtain ⟨hvalid₁, hvalid₂, -⟩ := exec_call_next hcall
  obtain ⟨hparams', htop', hra', hfp'⟩ := exec_call_frame hrj hcall
  have hsame (a : Word) : u.ValidAddress a = s.ValidAddress a := by
    rw [State.ValidAddress, State.ValidAddress, hparams, hparams']
  have hlower : s.reg rj + 2 - 1 = s.reg rj + 1 := by bv_omega
  obtain ⟨hexit, -, -⟩ := exitResult u rj op' (s.reg rj + 2) (s.reg 7) (s.reg rj + 1) hop'
    (htop.trans htop').symm (hfp.trans hfp').symm (by rw [if_neg hrj, hlower])
  rw [hexit (hsame _ ▸ hvalid₂) (hsame _ ▸ hvalid₁), hra, hra', BitVec.add_sub_cancel]

end Sys2Proof.Machine
end

section
/-! SUPPORT. Supervisor calls (R151 to R159): which service each number names, what the scratch words
leave of the state a service starts from, and what each service answers there. -/

namespace Sys2Proof.Machine

/-! ### Service numbers (R151, R159) -/

theorem serviceOf_eq_none (p : Params) (v : Word) :
    serviceOf p v = none ↔ v ∉ [p.svcHalt, p.svcRead, p.svcWrite, p.svcTime, p.svcDate] := by
  simp only [serviceOf, ite_eq_iff, reduceCtorEq, and_false, false_or, and_true, List.mem_cons,
    List.not_mem_nil, or_false, not_or]

/-! ### The scratch words (R153) -/

theorem scratch_invalidFirst {s : State} {top : Word} (h1 : ¬s.ValidAddress (top + 1)) :
    s.scratch top = .error (.addressOutOfBounds (top + 1)) := by
  rw [State.scratch, memWrite_invalid s _ _ h1, bind_error]

theorem scratch_invalidSecond {s : State} {top : Word} (h1 : s.ValidAddress (top + 1))
    (h2 : ¬s.ValidAddress (top + 2)) :
    s.scratch top = .error (.addressOutOfBounds (top + 2)) := by
  rw [State.scratch, memWrite_valid s _ _ h1, bind_ok,
    memWrite_invalid (s.setWord _ _) _ _ h2, bind_error]

/-- The state `t` in which a service starts that was called in `s` with its stack at `top`: the
environment has used the two words above the top, and the three parameter cells are intact. -/
structure ServiceStart (s t : State) (top : Word) : Prop where
  /-- nothing but memory and the count of draws differs -/
  state : t = { s with mem := t.mem, draws := t.draws }
  /-- memory differs in the two scratch words alone -/
  outside : WordsAgreeOutside [top + 1, top + 2] s t
  /-- the top cell -/
  topCell : t.word top.toNat = s.word top.toNat
  /-- the cell below it -/
  belowCell : t.word (top - 1).toNat = s.word (top - 1).toNat
  /-- the deepest parameter of three -/
  deepestCell : t.word (top - 2).toNat = s.word (top - 2).toNat

theorem serviceStart_of_scratch {s t : State} {top : Word} (hs : s.scratch top = .ok t) :
    ServiceStart s t top := by
  have hcells := scratch_serviceResults hs (some .time)
  simp only [State.serviceResults, List.cons.injEq, and_true] at hcells
  obtain ⟨hdeepest, hbelow, htop⟩ := hcells
  have houtside : WordsAgreeOutside [top + 1, top + 2] s t := scratch_words (by simp) (by simp) hs
  obtain ⟨-, -, rfl⟩ := (scratch_eq_ok s t top).mp hs
  exact ⟨rfl, houtside, htop, hbelow, hdeepest⟩

theorem ServiceStart.validAddress {s t : State} {top : Word} (h : ServiceStart s t top)
    (a : Word) : t.ValidAddress a = s.ValidAddress a := by
  rw [h.state]

theorem ServiceStart.word {s t : State} {top : Word} (h : ServiceStart s t top) {a : Nat}
    (h1 : a ≠ (top + 1).toNat) (h2 : a ≠ (top + 2).toNat) : t.word a = s.word a :=
  h.outside a (by simpa using ⟨h1, h2⟩)

/-! ### A supervisor call up to its service (R151) -/

section Call
variable {s : State} {rj : Reg} {op : Operand} (hop : s.OperandReadable op)
include hop

theorem exec_svc_unknown (hv : serviceOf s.params (s.operandWord op) = none) :
    exec (.svc rj op) s = .fault (.invalidService (s.operandWord op)) := by
  rw [exec, execSvc, withOperand_readable op s _ hop]
  simp only [hv, complete_error]

variable {service : Service} (hv : serviceOf s.params (s.operandWord op) = some service)
include hv

theorem exec_svc_known :
    exec (.svc rj op) s =
      complete (s.scratch (s.reg rj) >>= fun t => runService rj (s.reg rj) t service) := by
  rw [exec, execSvc, withOperand_readable op s _ hop]
  simp only [hv]

theorem exec_svc_serviceStart (h1 : s.ValidAddress (s.reg rj + 1))
    (h2 : s.ValidAddress (s.reg rj + 2)) :
    ∃ t, ServiceStart s t (s.reg rj) ∧
      exec (.svc rj op) s = complete (runService rj (s.reg rj) t service) := by
  have hscratch := scratch_valid s (s.reg rj) h1 h2
  exact ⟨_, serviceStart_of_scratch hscratch, by rw [exec_svc_known hop hv, hscratch, bind_ok]⟩

end Call

/-! ### READ (R155) -/

theorem exists_supplies {i : InputSequence} (h : i ≠ .ended) : ∃ v rest, i.Supplies v rest := by
  obtain ⟨⟨v, rest⟩, hvr⟩ := Option.ne_none_iff_exists'.mp fun hnone => h ((take_eq_none i).mp hnone)
  exact ⟨v, rest, (take_eq_some i v rest).mp hvr⟩

section Read
variable {s : State} {rj : Reg} {top : Word}

theorem serviceRead_invalidTop (htop : ¬s.ValidAddress top) :
    serviceRead rj top s = .error (.addressOutOfBounds top) := by
  rw [serviceRead, memRead_invalid s top htop, bind_error]

/-- With a valid top and a word to read, READ is the store at the address the top cell holds. -/
theorem serviceRead_of_supplies {v : Word} {rest : InputSequence} (htop : s.ValidAddress top)
    (hsupplies : s.inputKbd.Supplies v rest) :
    serviceRead rj top s =
      (s.setInput .kbd rest).memWrite (s.word top.toNat) v >>= fun t =>
        .ok (t.setReg rj (top - 1)) := by
  rw [serviceRead, memRead_valid s top htop, bind_ok, takeInput_supplies s .kbd v rest hsupplies,
    bind_ok]
  rfl

theorem serviceRead_ended (hended : s.inputKbd = .ended) (t : State) :
    serviceRead rj top s ≠ .ok t := by
  intro hread
  obtain ⟨addr, -, hread⟩ := (bind_eq_ok _ _ _).mp hread
  obtain ⟨⟨v, u⟩, hinput, -⟩ := (bind_eq_ok _ _ _).mp hread
  rw [takeInput_ended s .kbd hended] at hinput
  cases hinput

end Read

/-! ### WRITE (R158) -/

theorem serviceWrite_valid {s : State} {rj : Reg} {top : Word} (htop : s.ValidAddress top) :
    serviceWrite rj top s =
      .ok ((s.putOutput .crt (s.word top.toNat)).setReg rj (top - 1)) := by
  rw [serviceWrite, memRead_valid s top htop, bind_ok]
  rfl

theorem serviceWrite_invalid {s : State} {rj : Reg} {top : Word} (htop : ¬s.ValidAddress top) :
    serviceWrite rj top s = .error (.addressOutOfBounds top) := by
  rw [serviceWrite, memRead_invalid s top htop, bind_error]

/-! ### TIME and DATE (R156, R157)

No access of the clock changes which addresses are valid, so the service is six checks in a row and
then a change of state that cannot fault. -/

/-- The check an access begins with (R32). -/
def State.checkAddress (s : State) (a : Word) : Except Fault Unit :=
  if s.ValidAddress a then .ok () else .error (.addressOutOfBounds a)

/-- Checks of several addresses, in order. -/
def State.checkAddresses (s : State) : List Word → Except Fault Unit
  | [] => .ok ()
  | a :: as => s.checkAddress a >>= fun _ => s.checkAddresses as

/-- The state the clock's answers leave: three draws stored in order, three parameters removed. -/
def State.clockStored (s : State) (rj : Reg) (top first second third : Word) : State :=
  ((((s.setWord first.toNat (s.drawn 0)).setWord second.toNat (s.drawn 1)).setWord third.toNat
    (s.drawn 2)).spendDraws 3).setReg rj (top - 3)

section Clock
variable {s : State}

theorem memRead_eq_check (a : Word) :
    s.memRead a = s.checkAddress a >>= fun _ => .ok (s.word a.toNat) := by
  unfold State.memRead State.checkAddress
  split_ifs <;> rfl

theorem memWrite_eq_check (a v : Word) :
    s.memWrite a v = s.checkAddress a >>= fun _ => .ok (s.setWord a.toNat v) := by
  unfold State.memWrite State.checkAddress
  split_ifs <;> rfl

theorem setWord_checkAddress (a : Nat) (v : Word) :
    (s.setWord a v).checkAddress = s.checkAddress := rfl

theorem checkAddresses_valid {as : List Word} (h : ∀ a ∈ as, s.ValidAddress a) :
    s.checkAddresses as = .ok () := by
  induction as with
  | nil => rfl
  | cons a as ih =>
    obtain ⟨ha, has⟩ := List.forall_mem_cons.mp h
    rw [State.checkAddresses, State.checkAddress, if_pos ha, bind_ok, ih has]

/-- A row of checks faults at the first invalid address. -/
theorem checkAddresses_firstInvalid {before after : List Word} {a : Word}
    (hbefore : ∀ b ∈ before, s.ValidAddress b) (ha : ¬s.ValidAddress a) :
    s.checkAddresses (before ++ a :: after) = .error (.addressOutOfBounds a) := by
  induction before with
  | nil => rw [List.nil_append, State.checkAddresses, State.checkAddress, if_neg ha, bind_error]
  | cons b before ih =>
    obtain ⟨hb, hbs⟩ := List.forall_mem_cons.mp hbefore
    rw [List.cons_append, State.checkAddresses, State.checkAddress, if_pos hb, bind_ok, ih hbs]

/-- Everything the clock can do. -/
theorem serviceClock_eq_checks (rj : Reg) (top : Word) :
    serviceClock rj top s =
      s.checkAddresses [top, top - 1, top - 2, s.word (top - 2).toNat, s.word (top - 1).toNat,
        s.word top.toNat] >>= fun _ =>
          .ok (s.clockStored rj top (s.word (top - 2).toNat) (s.word (top - 1).toNat)
            (s.word top.toNat)) := by
  simp only [serviceClock, memRead_eq_check, memWrite_eq_check, setWord_checkAddress,
    State.checkAddresses, bind_assoc, bind_ok]
  rfl

end Clock

/-- TIME and DATE are the same service behind two numbers, started after the scratch words; the
addresses it uses are those on the caller's stack. -/
theorem exec_svc_clock {s : State} {rj : Reg} {op : Operand} (hp : s.params.Valid)
    (hop : s.OperandReadable op)
    (hv : s.operandWord op = s.params.svcTime ∨ s.operandWord op = s.params.svcDate)
    (h1 : s.ValidAddress (s.reg rj + 1)) (h2 : s.ValidAddress (s.reg rj + 2)) :
    ∃ t, ServiceStart s t (s.reg rj) ∧
      exec (.svc rj op) s =
        complete (t.checkAddresses [s.reg rj, s.reg rj - 1, s.reg rj - 2,
          s.word (s.reg rj - 2).toNat, s.word (s.reg rj - 1).toNat, s.word (s.reg rj).toNat] >>=
            fun _ => .ok (t.clockStored rj (s.reg rj) (s.word (s.reg rj - 2).toNat)
              (s.word (s.reg rj - 1).toNat) (s.word (s.reg rj).toNat))) := by
  obtain ⟨-, -, -, htime, hdate⟩ := serviceOf_numbers s.params hp
  obtain ⟨t, hstart, hexec⟩ : ∃ t, ServiceStart s t (s.reg rj) ∧
      exec (.svc rj op) s = complete (serviceClock rj (s.reg rj) t) := by
    rcases hv with hv | hv
    · exact exec_svc_serviceStart hop (hv ▸ htime) h1 h2
    · exact exec_svc_serviceStart hop (hv ▸ hdate) h1 h2
  refine ⟨t, hstart, ?_⟩
  rw [hexec, serviceClock_eq_checks, hstart.topCell, hstart.belowCell, hstart.deepestCell]

/-- The words the clock leaves: the last answer at the last address, the earlier ones where no later
one overwrites them. -/
theorem clockStored_word (s : State) (rj : Reg) (top first second third : Word) (a : Nat) :
    (s.clockStored rj top first second third).word a =
      if a = third.toNat then s.drawn 2
      else if a = second.toNat then s.drawn 1
      else if a = first.toNat then s.drawn 0
      else s.word a := by
  rw [State.clockStored, setReg_word, spendDraws_word, word_setWord, word_setWord, word_setWord]

/-! ### The obligations -/

/-- Settles O38: a value outside the five numbers names no service. -/
theorem invalidServiceFaults : Obligations.InvalidServiceFaults :=
  fun s _ _ hop hv => exec_svc_unknown hop ((serviceOf_eq_none s.params _).mpr hv)

/-- Settles O39: one of the five numbers names some service, whose scratch words are checked before
anything else of it. -/
theorem scratchFaults : Obligations.ScratchFaults := by
  intro s rj op hop hv
  obtain ⟨service, hservice⟩ := Option.ne_none_iff_exists'.mp fun hnone =>
    (serviceOf_eq_none s.params _).mp hnone hv
  rw [exec_svc_known hop hservice]
  refine ⟨fun h1 => ?_, fun h1 h2 => ?_⟩
  · rw [scratch_invalidFirst h1, bind_error, complete_error]
  · rw [scratch_invalidSecond h1 h2, bind_error, complete_error]

/-- Settles O40: HALT changes the run state of the state it starts in, and nothing else. -/
theorem svcHaltResult : Obligations.SvcHaltResult := by
  rintro s rj op _ hp hop hv rfl h1 h2
  obtain ⟨hhalt, -⟩ := serviceOf_numbers s.params hp
  obtain ⟨t, hstart, hexec⟩ := exec_svc_serviceStart hop (hv ▸ hhalt) h1 h2
  refine ⟨t.mem, t.draws, ?_, fun a ha1 ha2 => hstart.word ha1 ha2⟩
  rw [hexec, hstart.state]
  rfl

/-- Settles O41: READ faults at the top cell, finds no input, or stores what it read, which faults or
completes; the store comes after the scratch words. -/
theorem svcReadResult : Obligations.SvcReadResult := by
  rintro s rj op _ addr hp hop hv rfl h1 h2 haddr
  obtain ⟨-, hread, -⟩ := serviceOf_numbers s.params hp
  obtain ⟨t, hstart, hexec⟩ := exec_svc_serviceStart hop (hv ▸ hread) h1 h2
  replace hexec : exec (.svc rj op) s = complete (serviceRead rj (s.reg rj) t) := hexec
  have hkbd : t.inputKbd = s.inputKbd := by rw [hstart.state]
  have hvalid := hstart.validAddress
  have hstore (v : Word) (rest : InputSequence) (htop : s.ValidAddress (s.reg rj))
      (hsupplies : s.inputKbd.Supplies v rest) :
      exec (.svc rj op) s = complete ((t.setInput .kbd rest).memWrite addr v >>= fun u =>
        .ok (u.setReg rj (s.reg rj - 1))) := by
    rw [hexec, serviceRead_of_supplies (hvalid _ ▸ htop) (hkbd ▸ hsupplies), hstart.topCell, haddr]
  refine ⟨fun v rest htop hsupplies hdest => ?_, fun htop => ?_, fun htop hinput hdest => ?_,
    fun hended u => ?_⟩
  · refine ⟨Memory.write t.mem addr.toNat v, t.draws, ?_, ?_, fun a ha ha1 ha2 => ?_⟩
    · rw [hstore v rest htop hsupplies,
        memWrite_valid (t.setInput .kbd rest) addr v (hvalid _ ▸ hdest), bind_ok, complete_ok,
        hstart.state]
      rfl
    · exact word_setWord_same t addr.toNat v
    · exact (word_setWord_other t addr.toNat a v ha).trans (hstart.word ha1 ha2)
  · rw [hexec, serviceRead_invalidTop (hvalid _ ▸ htop), complete_error]
  · obtain ⟨v, rest, hsupplies⟩ := exists_supplies hinput
    rw [hstore v rest htop hsupplies,
      memWrite_invalid (t.setInput .kbd rest) addr v (hvalid _ ▸ hdest), bind_error, complete_error]
  · rw [hexec, Ne, complete_eq_next]
    exact serviceRead_ended (hkbd.trans hended) u

/-- Settles O42: WRITE reads the top cell, which the scratch words leave as it was. -/
theorem svcWriteResult : Obligations.SvcWriteResult := by
  rintro s rj op _ hp hop hv rfl h1 h2
  obtain ⟨-, -, hwrite, -⟩ := serviceOf_numbers s.params hp
  obtain ⟨t, hstart, hexec⟩ := exec_svc_serviceStart hop (hv ▸ hwrite) h1 h2
  replace hexec : exec (.svc rj op) s = complete (serviceWrite rj (s.reg rj) t) := hexec
  have hvalid := hstart.validAddress
  refine ⟨fun htop => ?_, fun htop => ?_⟩
  · refine ⟨t.mem, t.draws, ?_, fun a ha1 ha2 => hstart.word ha1 ha2⟩
    rw [hexec, serviceWrite_valid (hvalid _ ▸ htop), hstart.topCell, complete_ok, hstart.state]
    rfl
  · rw [hexec, serviceWrite_invalid (hvalid _ ▸ htop), complete_error]

/-- Settles O43: with all six addresses valid the three draws are stored in order. -/
theorem svcClockResult : Obligations.SvcClockResult := by
  rintro s rj op _ a1 a2 a3 hp hop hv rfl h1 h2 htop hbelow hdeepest rfl rfl rfl hv1 hv2 hv3
  obtain ⟨t, hstart, hexec⟩ := exec_svc_clock hp hop hv h1 h2
  have hvalid := hstart.validAddress
  rw [checkAddresses_valid (by simpa [hvalid] using ⟨htop, hbelow, hdeepest, hv1, hv2, hv3⟩),
    bind_ok, complete_ok] at hexec
  generalize s.word (s.reg rj - 2).toNat = a1, s.word (s.reg rj - 1).toNat = a2,
    s.word (s.reg rj).toNat = a3 at hexec ⊢
  have hword := clockStored_word t rj (s.reg rj) a1 a2 a3
  refine ⟨(t.clockStored rj (s.reg rj) a1 a2 a3).mem, t.draws + 3, t.draws, ?_, ?_, fun h23 => ?_,
    fun h12 h13 => ?_, fun a ha => ?_⟩
  · rw [hexec, hstart.state]
    rfl
  · exact (hword _).trans (if_pos rfl)
  · refine (hword _).trans ?_
    rw [if_neg (BitVec.toNat_inj.not.mpr h23), if_pos rfl, State.drawn]
  · refine (hword _).trans ?_
    rw [if_neg (BitVec.toNat_inj.not.mpr h13), if_neg (BitVec.toNat_inj.not.mpr h12), if_pos rfl,
      State.drawn, Nat.add_zero]
  · simp only [List.forall_mem_cons] at ha
    obtain ⟨ha1, ha2, ha3, hs1, hs2, -⟩ := ha
    refine (hword a).trans ?_
    rw [if_neg ha3, if_neg ha2, if_neg ha1, hstart.word hs1 hs2]

/-- Settles O44: the six checks of the clock are on the addresses of the statement, in its order. -/
theorem svcClockFaults : Obligations.SvcClockFaults := by
  rintro s rj op _ as hp hop hv rfl h1 h2 has before after a hsplit hbefore ha
  obtain ⟨t, hstart, hexec⟩ := exec_svc_clock hp hop hv h1 h2
  have hvalid := hstart.validAddress
  rw [hexec, ← has, hsplit,
    checkAddresses_firstInvalid (fun b hb => hvalid b ▸ hbefore b hb) (hvalid a ▸ ha), bind_error,
    complete_error]

end Sys2Proof.Machine
end

section
/-! NOP (R165), which reads its operand and uses nothing of it (R58). -/

namespace Sys2Proof.Machine

/-- Settles O13: the operation ignores the operand's word and answers the state it was given. -/
theorem nopResult : Obligations.NopResult := by
  intro s rj op hop
  rw [exec, execNop, withOperand_readable op s _ hop, complete_ok]

end Sys2Proof.Machine
end

section
/-! SUPPORT. The decoder on words of the spec's worked encodings (R56). -/

namespace Sys2Proof

/-- Settles O4: the decoder evaluates on each word. -/
theorem decodeSampleWords : Obligations.DecodeSampleWords := by
  refine ⟨?_, ?_, ?_, ?_, ?_, ?_, ?_, ?_⟩ <;> decide

end Sys2Proof
end

section
/-! SUPPORT. Exhausted input, for IN and for the service READ (R83, R155, R194; log 8). -/

namespace Sys2Proof.Machine

/-- READ with a valid top and nothing left to read is the fault that stands for the stuck state. -/
theorem serviceRead_exhausted {s : State} {rj : Reg} {top : Word} (htop : s.ValidAddress top)
    (hended : s.inputKbd = .ended) :
    serviceRead rj top s = .error (.inputExhausted s.params.devKbd) := by
  rw [serviceRead, memRead_valid s top htop, bind_ok, takeInput_ended s .kbd hended, bind_error,
    inputNumber]

/-- Settles O17: an input number names its device, which has nothing left; the scratch words of READ
change neither the keyboard nor which addresses are valid. -/
theorem exhaustedInputFaults : Obligations.ExhaustedInputFaults := by
  intro s rj op hp hop
  have hinp (d : InputDevice) (hd : s.operandWord op = inputNumber s.params d)
      (hended : s.input d = .ended) :
      exec (.inp rj op) s = .fault (.inputExhausted (inputNumber s.params d)) :=
    exec_inp_ended hop (hd ▸ inputDeviceOf_inputNumber hp d) hended
  refine ⟨hinp .kbd, hinp .stdin, fun hv hended htop h1 h2 => ?_⟩
  obtain ⟨-, hread, -⟩ := serviceOf_numbers s.params hp
  obtain ⟨t, hstart, hexec⟩ := exec_svc_serviceStart hop (hv ▸ hread) h1 h2
  have hkbd : t.inputKbd = .ended := by rw [hstart.state, hended]
  have hparams : t.params = s.params := by rw [hstart.state]
  rw [hexec, runService, serviceRead_exhausted (hstart.validAddress _ ▸ htop) hkbd, complete_error,
    hparams]

end Sys2Proof.Machine
end

section
/-! SUPPORT. CALL on any stack (R141). -/

namespace Sys2Proof.Machine

/-- With the operand readable and a valid cell for the return address, CALL is the push of the FP
from a state `u` whose stack has grown by that cell, then the jump. -/
theorem exec_call_of_validFirst {s : State} {rj : Reg} {op : Operand} (hop : s.OperandReadable op)
    (hfirst : s.ValidAddress (s.reg rj + 1)) :
    ∃ u : State, (∀ a, u.ValidAddress a = s.ValidAddress a) ∧ u.reg rj + 1 = s.reg rj + 2 ∧
      exec (.call rj op) s = complete ((u.pushFrom rj fun t => t.reg .fp) >>= fun t =>
        .ok ((t.setPc (s.operandWord op)).setReg .fp (t.reg rj))) := by
  refine ⟨(s.growStack rj).setWord (s.reg rj + 1).toNat s.pc, fun _ => rfl, ?_, ?_⟩
  · rw [setWord_reg, growStack_def, reg_setReg_same]
    exact add_one_add_ofNat (s.reg rj) 1
  · refine (withOperand_readable op s _ hop).trans ?_
    rw [pushFrom_valid s rj _ hfirst, bind_ok]
    rfl

/-- Settles O35: CALL faults at the cell of the return address, or at that of FP, or completes. -/
theorem callResult : Obligations.CallResult := by
  rintro s rj op _ hop rfl
  refine ⟨fun hfirst hsecond => ?_, fun hinvalid => ?_, fun hfirst hinvalid => ?_⟩
  · obtain ⟨u, hsame, htop, hexec⟩ := exec_call_of_validFirst hop hfirst
    rw [pushFrom_valid u rj _ (by rwa [htop, hsame]), bind_ok, complete_ok] at hexec
    obtain ⟨-, -, hstate⟩ := exec_call_next hexec
    rw [hexec, hstate]
  · refine (withOperand_readable op s _ hop).trans ?_
    rw [pushFrom_invalid s rj _ hinvalid, bind_error, complete_error]
  · obtain ⟨u, hsame, htop, hexec⟩ := exec_call_of_validFirst hop hfirst
    rw [hexec, pushFrom_invalid u rj _ (by rwa [htop, hsame]), bind_error, complete_error, htop]

end Sys2Proof.Machine
end

section
/-! SUPPORT. Loading (R200): the image's words stand in memory in the canonical form, and the loaded
state meets the invariant. -/

namespace Sys2Proof.Machine

/-! ### The cells of an image -/

/-- The cells of an image stand one above the other from its first address on. -/
theorem lookup_imageCells (ws : List Word) (base a : Nat) :
    Memory.lookup (imageCells base ws) (base + a) = ws[a]? := by
  induction ws generalizing base a with
  | nil => rfl
  | cons w ws ih =>
    rw [imageCells, Memory.lookup]
    cases a with
    | zero => simp
    | succ a =>
      rw [if_neg (by omega), List.getElem?_cons_succ, ← ih (base + 1) a]
      congr 1
      omega

theorem imageCells_bounds {ws : List Word} {base : Nat} {c : Cell} (hc : c ∈ imageCells base ws) :
    base ≤ c.1 ∧ c.1 < base + ws.length := by
  induction ws generalizing base with
  | nil => cases hc
  | cons w ws ih =>
    rw [List.length_cons]
    rcases List.mem_cons.mp hc with rfl | hc
    · exact ⟨le_rfl, by omega⟩
    · have := ih hc
      omega

theorem imageCells_wf (ws : List Word) (base : Nat) : Memory.wf (imageCells base ws) := by
  induction ws generalizing base with
  | nil => exact List.Pairwise.nil
  | cons w ws ih =>
    exact List.pairwise_cons.mpr ⟨fun _ hc => (imageCells_bounds hc).1, ih (base + 1)⟩

/-! ### The loaded state -/

/-- Settles O54: each part of the state is as the load writes it, the image cell by cell. -/
theorem loadResultState : Obligations.LoadResultState := by
  intro p image fp kbd stdin
  refine ⟨fun hfits => ⟨_, if_pos hfits, fun a ha => ?_, ?_, rfl, rfl, rfl, rfl, rfl, rfl, rfl, rfl,
    rfl, rfl⟩, fun hlarge => if_neg (by omega)⟩
  · have hcell : Memory.lookup (imageCells 0 image) a = some image[a] := by
      simpa [ha] using lookup_imageCells image 0 a
    rw [State.word, Memory.word, hcell, Option.getD_some]
  · rintro ⟨k, _⟩ hk
    interval_cases k <;> rfl

/-- A load that is not refused had an image that fits, and memory holds its cells alone. -/
theorem load_eq_some {p : Params} {image : List Word} {fp : Word} {kbd stdin : InputSequence}
    {s : State} (h : State.load p image fp kbd stdin = some s) :
    image.length ≤ p.memWords ∧ s.mem = imageCells 0 image := by
  unfold State.load at h
  split at h
  · next hfits => exact Option.some.inj h ▸ ⟨hfits, rfl⟩
  · cases h

/-- Settles O52: the flags are clear, the machine runs, and the cells of an image that fits rise
below `MEM_WORDS`. -/
theorem loadInv : Obligations.LoadInv := by
  intro p image fp kbd stdin s hp hload
  obtain ⟨hfits, hmem⟩ := load_eq_some hload
  obtain ⟨hstate, -⟩ := loadResultState p image fp kbd stdin
  obtain ⟨t, hload', -, -, -, -, -, hsr, hrun, -, -, -, -, hparams⟩ := hstate hfits
  obtain rfl : t = s := Option.some.inj (hload'.symm.trans hload)
  refine ⟨hparams ▸ hp, ⟨hmem ▸ imageCells_wf image 0, fun c hc => ?_⟩, ?_, fun f => ?_⟩
  · obtain ⟨-, hlt⟩ := imageCells_bounds (hmem ▸ hc)
    rw [hparams]
    omega
  · rw [hsr]; decide
  · rw [hrun]; exact nofun

/-! ### The reset state -/

/-- Settles O55: the empty image fits, and R6 is `wrap32(0 - 1)`. -/
theorem resetIsTheEmptyLoad : Obligations.ResetIsTheEmptyLoad :=
  if_pos (Nat.zero_le _)

/-- Settles O51: the reset state is a loaded state (O55), and every loaded state meets the invariant
(O52). -/
theorem resetInv : Obligations.ResetInv :=
  loadInv Params.default [] 0 .ended .ended State.reset (by decide) resetIsTheEmptyLoad

end Sys2Proof.Machine
end

section
/-! SUPPORT. The program image (R172 to R175): the words and the symbols of a program, one part
after the other. -/

namespace Sys2Proof.Machine

/-! ### Symbols (R64, R175) -/

/-- A table without a duplicate has distinct keys, none of them seen before. -/
theorem nodup_keys_of_firstDuplicate {table : SymbolTable} {seen : List Label}
    (h : firstDuplicate table seen = none) :
    (table.map Prod.fst).Nodup ∧ ∀ k ∈ table.map Prod.fst, k ∉ seen := by
  induction table generalizing seen with
  | nil => exact ⟨List.nodup_nil, nofun⟩
  | cons entry rest ih =>
    obtain ⟨k, n⟩ := entry
    rw [firstDuplicate] at h
    split at h
    · cases h
    · next hk =>
      obtain ⟨hnodup, hfresh⟩ := ih h
      have hrest : ∀ k' ∈ rest.map Prod.fst, k' ≠ k ∧ k' ∉ seen := fun k' hk' => by
        simpa using hfresh k' hk'
      refine ⟨List.nodup_cons.mpr ⟨fun hmem => (hrest k hmem).1 rfl, hnodup⟩, ?_⟩
      exact List.forall_mem_cons.mpr ⟨hk, fun k' hk' => (hrest k' hk').2⟩

/-- With distinct keys every entry of a table gives its key's value. -/
theorem symbolValue_of_mem {table : SymbolTable} (hnodup : (table.map Prod.fst).Nodup) {k : Label}
    {n : Int} (hmem : (k, n) ∈ table) : symbolValue table k = some n := by
  induction table with
  | nil => cases hmem
  | cons entry rest ih =>
    obtain ⟨hfresh, hnodup⟩ := List.nodup_cons.mp hnodup
    rw [symbolValue]
    rcases List.mem_cons.mp hmem with rfl | hmem
    · exact if_pos rfl
    · have hne : entry.1 ≠ k := fun heq => hfresh (heq ▸ List.mem_map_of_mem hmem)
      rw [if_neg hne, ih hnodup hmem]

/-! ### A line and the lines after it (R172, R173, R175) -/

theorem assembleCode_instruction_eq_ok {table : SymbolTable} {label : Option Label} {m : Mnemonic}
    {rj : Option RegName} {operand : Option OperandForm} {rest : List Line} {ws : List Word} :
    assembleCode table (.instruction label m rj operand :: rest) = .ok ws ↔
      ∃ i vs, assembleInstruction table m rj operand = .ok i ∧ assembleCode table rest = .ok vs ∧
        ws = encode i :: vs := by
  constructor
  · intro h
    obtain ⟨i, hi, h⟩ := assembler_bind_eq_ok h
    obtain ⟨vs, hvs, h⟩ := assembler_bind_eq_ok h
    exact ⟨i, vs, hi, hvs, (Except.ok.inj h).symm⟩
  · rintro ⟨i, vs, hi, hvs, rfl⟩
    rw [assembleCode, hi, hvs]
    rfl

theorem assembleData_dc_eq_ok {label : Label} {value : Int} {rest : List Line} {ws : List Word} :
    assembleData (.dc label value :: rest) = .ok ws ↔
      fits32 value ∧ ∃ vs, assembleData rest = .ok vs ∧ ws = wrap32 value :: vs := by
  rw [assembleData]
  split
  · next hfits =>
    refine ⟨fun h => ?_, ?_⟩
    · obtain ⟨vs, hvs, h⟩ := assembler_bind_eq_ok h
      exact ⟨hfits, vs, hvs, (Except.ok.inj h).symm⟩
    · rintro ⟨-, vs, hvs, rfl⟩
      rw [hvs]
      rfl
  · next hfits => exact ⟨nofun, fun h => absurd h.1 hfits⟩

theorem assembleData_ds_eq_ok {label : Label} {size : Int} {rest : List Line} {ws : List Word} :
    assembleData (.ds label size :: rest) = .ok ws ↔
      0 < size ∧ ∃ vs, assembleData rest = .ok vs ∧ ws = List.replicate size.toNat 0 ++ vs := by
  rw [assembleData]
  split
  · next hpos =>
    refine ⟨fun h => ?_, ?_⟩
    · obtain ⟨vs, hvs, h⟩ := assembler_bind_eq_ok h
      exact ⟨hpos, vs, hvs, (Except.ok.inj h).symm⟩
    · rintro ⟨-, vs, hvs, rfl⟩
      rw [hvs]
      rfl
  · next hpos => exact ⟨nofun, fun h => absurd h.1 hpos⟩

/-! ### How many words, and what they are (R175) -/

theorem assembleCode_length {table : SymbolTable} {lines : List Line} {ws : List Word}
    (h : assembleCode table lines = .ok ws) : ws.length = codeWords lines := by
  induction lines generalizing ws with
  | nil => exact Except.ok.inj h ▸ rfl
  | cons line rest ih =>
    cases line with
    | instruction =>
      obtain ⟨i, vs, -, hvs, rfl⟩ := assembleCode_instruction_eq_ok.mp h
      rw [List.length_cons, ih hvs, codeWords]
    | equ | dc | ds | define => exact ih h

/-- Every code word is that of an instruction some line assembled to, so it decodes (R68). -/
theorem assembleCode_decodes {table : SymbolTable} {lines : List Line} {ws : List Word}
    (h : assembleCode table lines = .ok ws) : ∀ w ∈ ws, ∃ i, decode w = .ok i := by
  induction lines generalizing ws with
  | nil => exact Except.ok.inj h ▸ nofun
  | cons line rest ih =>
    cases line with
    | instruction =>
      obtain ⟨i, vs, hi, hvs, rfl⟩ := assembleCode_instruction_eq_ok.mp h
      obtain ⟨-, hdecode⟩ := assembledIsWellFormed _ _ _ _ i hi
      exact List.forall_mem_cons.mpr ⟨⟨i, hdecode⟩, ih hvs⟩
    | equ | dc | ds | define => exact ih h

theorem assembleData_length {lines : List Line} {ws : List Word}
    (h : assembleData lines = .ok ws) : ws.length = dataWords lines := by
  induction lines generalizing ws with
  | nil => exact Except.ok.inj h ▸ rfl
  | cons line rest ih =>
    cases line with
    | dc =>
      obtain ⟨-, vs, hvs, rfl⟩ := assembleData_dc_eq_ok.mp h
      rw [List.length_cons, ih hvs, dataWords]
    | ds =>
      obtain ⟨-, vs, hvs, rfl⟩ := assembleData_ds_eq_ok.mp h
      rw [List.length_append, List.length_replicate, ih hvs, dataWords, Nat.add_comm]
    | instruction | equ | define => exact ih h

/-! ### A program in two parts -/

/-- The labels of the second part are counted on from the words of the first. -/
theorem definitions_append (before after : List Line) (code data : Nat) :
    definitions (before ++ after) code data =
      definitions before code data ++
        definitions after (code + codeWords before) (data + dataWords before) := by
  induction before generalizing code data with
  | nil => rfl
  | cons line before ih =>
    cases line with
    | instruction label =>
      cases label <;> simp +arith [definitions, codeWords, dataWords, ih]
    | equ | dc | ds | define => simp +arith [definitions, codeWords, dataWords, ih]

theorem assembleCode_append {table : SymbolTable} {before after : List Line} {ws : List Word}
    (h : assembleCode table (before ++ after) = .ok ws) :
    ∃ us vs, assembleCode table before = .ok us ∧ assembleCode table after = .ok vs ∧
      ws = us ++ vs := by
  induction before generalizing ws with
  | nil => exact ⟨[], ws, rfl, h, rfl⟩
  | cons line before ih =>
    cases line with
    | instruction =>
      obtain ⟨i, ws, hi, hws, rfl⟩ := assembleCode_instruction_eq_ok.mp h
      obtain ⟨us, vs, hus, hvs, rfl⟩ := ih hws
      exact ⟨encode i :: us, vs, assembleCode_instruction_eq_ok.mpr ⟨i, us, hi, hus, rfl⟩, hvs, rfl⟩
    | equ | dc | ds | define => exact ih h

theorem assembleData_append {before after : List Line} {ws : List Word}
    (h : assembleData (before ++ after) = .ok ws) :
    ∃ us vs, assembleData before = .ok us ∧ assembleData after = .ok vs ∧ ws = us ++ vs := by
  induction before generalizing ws with
  | nil => exact ⟨[], ws, rfl, h, rfl⟩
  | cons line before ih =>
    cases line with
    | dc =>
      obtain ⟨hfits, ws, hws, rfl⟩ := assembleData_dc_eq_ok.mp h
      obtain ⟨us, vs, hus, hvs, rfl⟩ := ih hws
      exact ⟨_, vs, assembleData_dc_eq_ok.mpr ⟨hfits, us, hus, rfl⟩, hvs, rfl⟩
    | ds =>
      obtain ⟨hpos, ws, hws, rfl⟩ := assembleData_ds_eq_ok.mp h
      obtain ⟨us, vs, hus, hvs, rfl⟩ := ih hws
      exact ⟨_, vs, assembleData_ds_eq_ok.mpr ⟨hpos, us, hus, rfl⟩, hvs,
        (List.append_assoc _ _ _).symm⟩
    | instruction | equ | define => exact ih h

/-! ### The image and its symbols -/

/-- A program that assembles has distinct symbols, and its image is its code and its data. -/
theorem assemble_ok {p : Params} {lines : List Line} {image : Image}
    (h : assemble p lines = .ok image) :
    ((symbolTable p lines).map Prod.fst).Nodup ∧
      assembleCode (symbolTable p lines) lines = .ok image.code ∧
      assembleData lines = .ok image.data := by
  obtain ⟨-, -, h⟩ := assembler_bind_eq_ok h
  split at h
  · cases h
  · next hduplicate =>
    obtain ⟨code, hcode, h⟩ := assembler_bind_eq_ok h
    obtain ⟨data, hdata, h⟩ := assembler_bind_eq_ok h
    obtain rfl := Except.ok.inj h
    obtain ⟨hnodup, -⟩ := nodup_keys_of_firstDuplicate hduplicate
    exact ⟨hnodup, hcode, hdata⟩

/-- A symbol a part of an assembled program defines has the value defined there, the words before
that part being counted. -/
theorem symbolValue_of_definitions {p : Params} {before after : List Line} {image : Image}
    (h : assemble p (before ++ after) = .ok image) {k : Label} {n : Int}
    (hmem : (k, n) ∈ definitions after (codeWords before)
      (codeWords (before ++ after) + dataWords before)) :
    symbolValue (symbolTable p (before ++ after)) k = some n := by
  obtain ⟨hnodup, -, -⟩ := assemble_ok h
  refine symbolValue_of_mem hnodup (List.mem_append_right _ ?_)
  rw [definitions_append, Nat.zero_add]
  exact List.mem_append_right _ hmem

/-- Settles O59: each instruction line gives one word, which decodes, and each DC and DS line the
words it reserves. -/
theorem imageLayout : Obligations.ImageLayout := by
  intro p lines image h
  obtain ⟨-, hcode, hdata⟩ := assemble_ok h
  exact ⟨assembleCode_length hcode, assembleData_length hdata, assembleCode_decodes hcode⟩

/-- Settles O60: the lines before a labelled line give as many words as its label counts, so its own
word comes next. -/
theorem labelsNameTheirWords : Obligations.LabelsNameTheirWords := by
  intro p before after image l
  refine ⟨fun m rj operand h => ?_, fun value h => ?_⟩
  · obtain ⟨-, hcode, -⟩ := assemble_ok h
    obtain ⟨us, vs, hus, hvs, hwords⟩ := assembleCode_append hcode
    obtain ⟨i, vs, hi, -, rfl⟩ := assembleCode_instruction_eq_ok.mp hvs
    refine ⟨i, symbolValue_of_definitions h List.mem_cons_self, hi, ?_⟩
    rw [Image.words, hwords, ← assembleCode_length hus]
    simp
  · obtain ⟨-, hcode, hdata⟩ := assemble_ok h
    obtain ⟨us, vs, hus, hvs, hwords⟩ := assembleData_append hdata
    obtain ⟨-, vs, -, rfl⟩ := assembleData_dc_eq_ok.mp hvs
    refine ⟨_, symbolValue_of_definitions h List.mem_cons_self, ?_⟩
    rw [Image.words, hwords, ← assembleCode_length hcode, ← assembleData_length hus]
    simp

end Sys2Proof.Machine
end
